-- ==== Sys2Proof/Word.lean ====
section
/-! DEFINITION. The words of the block: bytes, 32-bit host words, binary64 patterns and complex
samples (00_scope R12, R17). -/

namespace Sys2Proof

/-- One byte of a buffer. -/
abbrev Byte := BitVec 8

/-- One 32-bit word of the host port (20_memory R100). -/
abbrev Word := BitVec 32

/-- An 18-bit byte address relative to the block's base (20_memory R100, ADDR_W of 00_scope R10). -/
abbrev Addr := BitVec 18

/-- A binary64 value, held as its 64-bit pattern (00_scope R17, R22: "bit-exact"). -/
abbrev F64 := BitVec 64

/-- A complex sample, the pair `(re, im)` of 00_scope R17. -/
structure Cplx where
  /-- real part -/
  re : F64
  /-- imaginary part -/
  im : F64
  deriving DecidableEq, Repr

/-- `CZERO` of 00_scope R17: `(+0.0, +0.0)`. -/
def czero : Cplx := ⟨0, 0⟩

/-- The direction of a transform (00_scope R25). -/
inductive Dir where
  /-- forward, exponent sign minus (00_scope R23) -/
  | fwd
  /-- inverse, exponent sign plus -/
  | inv
  deriving DecidableEq, Repr

end Sys2Proof
end

