-- ==== Sys2Proof/Machine/Float.lean ====
section
/-! DEFINITION. IEEE 754 binary64 arithmetic (00_scope R18 to R22): roundTiesToEven, subnormals kept,
no fused multiply-add, every operation computed exactly in integers and rounded once. The encoding and
the special cases are those of the standard the spec adopts (PRESUMED, log 23).

Every finite binary64 is a whole number of UNITS of 2^-1074, so sums, products and quotients are
exact ratios of natural numbers until `Fp.round` narrows them. A NaN result is the one pattern
`Fp.qnan` inside a formula; its free sign and payload (00_scope R26) are drawn where a NaN is stored
(DEDUCED, log 7). -/

namespace Sys2Proof.Machine

/-- The sign bit. -/
def Fp.sign (x : F64) : Bool := x.getLsbD 63

/-- The biased exponent field, bits 62:52. -/
def Fp.expo (x : F64) : Nat := (x.extractLsb' 52 11).toNat

/-- The fraction field, bits 51:0. -/
def Fp.frac (x : F64) : Nat := (x.extractLsb' 0 52).toNat

/-- A NaN: exponent all ones, fraction not 0. -/
def Fp.isNaN (x : F64) : Bool := Fp.expo x == 2047 && Fp.frac x != 0

/-- An infinity: exponent all ones, fraction 0. -/
def Fp.isInf (x : F64) : Bool := Fp.expo x == 2047 && Fp.frac x == 0

/-- Neither infinite nor NaN. -/
def Fp.isFinite (x : F64) : Bool := Fp.expo x != 2047

/-- `+0.0` or `-0.0`. -/
def Fp.isZero (x : F64) : Bool := Fp.expo x == 0 && Fp.frac x == 0

/-- The magnitude of a finite value in units of 2^-1074. An infinity gets a magnitude above every
finite one, so that it orders as IEEE orders it. -/
def Fp.mag (x : F64) : Nat :=
  if Fp.expo x = 0 then Fp.frac x else (2 ^ 52 + Fp.frac x) * 2 ^ (Fp.expo x - 1)

/-- The value of a finite binary64 in units of 2^-1074. -/
def Fp.units (x : F64) : Int := if Fp.sign x then -(Fp.mag x : Int) else Fp.mag x

/-- The pattern of +infinity. -/
def Fp.posInf : F64 := 0x7FF0000000000000

/-- The pattern of -infinity. -/
def Fp.negInf : F64 := 0xFFF0000000000000

/-- The NaN that stands for "a NaN" inside a formula (DEDUCED, log 7). -/
def Fp.qnan : F64 := 0x7FF8000000000000

/-- The pattern of 1.0. -/
def Fp.one : F64 := 0x3FF0000000000000

/-- The sign bit alone: `-0.0`. -/
def Fp.signBit : F64 := 0x8000000000000000

/-- A zero of the given sign. -/
def Fp.zero (neg : Bool) : F64 := if neg then Fp.signBit else 0

/-- An infinity of the given sign. -/
def Fp.inf (neg : Bool) : F64 := if neg then Fp.negInf else Fp.posInf

/-- `num / den` to the nearest integer, ties to even (roundTiesToEven of 00_scope R18). -/
def Fp.roundTiesToEven (num den : Nat) : Nat :=
  let q := num / den
  let r := num % den
  if 2 * r < den then q
  else if den < 2 * r then q + 1
  else q + q % 2

/-- How many bits the value `num / den` units has above a 53-bit significand: the binary exponent of
the last place, in units. -/
def Fp.scale (num den : Nat) : Nat := Nat.log2 (num / den) - 52

/-- The magnitude pattern (bits 62:0) of `num / den` units rounded to nearest, ties to even. The
significand adds to the exponent field, so a carry out of it goes into the exponent; past the largest
finite value the result is the infinity. -/
def Fp.roundMag (num den : Nat) : Nat :=
  let k := Fp.scale num den
  min (k * 2 ^ 52 + Fp.roundTiesToEven num (den * 2 ^ k)) 0x7FF0000000000000

/-- `num / den` units of 2^-1074, with a sign, rounded to binary64 (00_scope R18). -/
def Fp.round (neg : Bool) (num den : Nat) : F64 :=
  BitVec.ofNat 64 ((if neg then 2 ^ 63 else 0) + Fp.roundMag num den)

/-- A natural number as a binary64 (00_scope R18: integers convert exactly). -/
def Fp.ofNat (n : Nat) : F64 := Fp.round false (n * 2 ^ 1074) 1

/-- `fl(a + b)` (00_scope R18). -/
def Fp.add (a b : F64) : F64 :=
  if Fp.isNaN a || Fp.isNaN b then Fp.qnan
  else if Fp.isInf a then
    if Fp.isInf b && Fp.sign a != Fp.sign b then Fp.qnan else a
  else if Fp.isInf b then b
  else
    let z := Fp.units a + Fp.units b
    if z = 0 then Fp.zero (Fp.sign a && Fp.sign b)
    else Fp.round (decide (z < 0)) z.natAbs 1

/-- The value with its sign bit flipped. -/
def Fp.neg (a : F64) : F64 := a ^^^ Fp.signBit

/-- `fl(a - b)` (00_scope R18). -/
def Fp.sub (a b : F64) : F64 := Fp.add a (Fp.neg b)

/-- `fl(a * b)` (00_scope R18). -/
def Fp.mul (a b : F64) : F64 :=
  let neg := Fp.sign a != Fp.sign b
  if Fp.isNaN a || Fp.isNaN b then Fp.qnan
  else if Fp.isInf a || Fp.isInf b then
    if Fp.isZero a || Fp.isZero b then Fp.qnan else Fp.inf neg
  else Fp.round neg (Fp.mag a * Fp.mag b) (2 ^ 1074)

/-- `fl(a / b)` (00_scope R18). -/
def Fp.div (a b : F64) : F64 :=
  let neg := Fp.sign a != Fp.sign b
  if Fp.isNaN a || Fp.isNaN b then Fp.qnan
  else if Fp.isInf a then
    if Fp.isInf b then Fp.qnan else Fp.inf neg
  else if Fp.isInf b then Fp.zero neg
  else if Fp.isZero b then
    if Fp.isZero a then Fp.qnan else Fp.inf neg
  else Fp.round neg (Fp.mag a * 2 ^ 1074) (Fp.mag b)

/-- IEEE `a == b`: false with a NaN, and `+0.0 == -0.0` (00_scope R22). -/
def Fp.eq (a b : F64) : Bool :=
  !Fp.isNaN a && !Fp.isNaN b && Fp.units a == Fp.units b

/-- IEEE `a < b`: false with a NaN (00_scope R22). -/
def Fp.lt (a b : F64) : Bool :=
  !Fp.isNaN a && !Fp.isNaN b && decide (Fp.units a < Fp.units b)

/-- `a > m / sqrt K` for `a = |x|`, exact on real numbers: the test `K * a^2 > m^2` of 46_qam R292.
False for a NaN, true for an infinity. -/
def Fp.absExceeds (m K : Nat) (x : F64) : Bool :=
  if Fp.isNaN x then false
  else if Fp.isInf x then true
  else decide (m ^ 2 * (2 ^ 1074) ^ 2 < K * Fp.mag x ^ 2)

/-- Equality of complex values: both components, IEEE (00_scope R22). -/
def Cx.eq (a b : Cplx) : Bool := Fp.eq a.re b.re && Fp.eq a.im b.im

/-- `cadd` (00_scope R19). -/
def Cx.add (a b : Cplx) : Cplx := ⟨Fp.add a.re b.re, Fp.add a.im b.im⟩

/-- `csub` (00_scope R19). -/
def Cx.sub (a b : Cplx) : Cplx := ⟨Fp.sub a.re b.re, Fp.sub a.im b.im⟩

/-- `cabs2`, the squared magnitude (00_scope R20). -/
def Cx.abs2 (z : Cplx) : F64 := Fp.add (Fp.mul z.re z.re) (Fp.mul z.im z.im)

/-- `cdiv`, division by the textbook formula, in the order written (00_scope R21). -/
def Cx.div (a b : Cplx) : Cplx :=
  let den := Cx.abs2 b
  ⟨Fp.div (Fp.add (Fp.mul a.re b.re) (Fp.mul a.im b.im)) den,
   Fp.div (Fp.sub (Fp.mul a.im b.re) (Fp.mul a.re b.im)) den⟩

/-- Both components are finite. -/
def Cx.isFinite (z : Cplx) : Bool := Fp.isFinite z.re && Fp.isFinite z.im

/-- Both components are `+0.0` or `-0.0`. -/
def Cx.isZero (z : Cplx) : Bool := Fp.isZero z.re && Fp.isZero z.im

end Sys2Proof.Machine
end

