-- ==== Sys2Proof/Machine/Ideal.lean ====
section
/-! DEFINITION. What the spec fixes about its two open functions: the ideal unitary transforms of
00_scope R23, the properties R27 of FFT_IMPL, and the properties R28 of LOG10_IMPL. -/

namespace Sys2Proof.Machine

/-- A complex sample as a complex number, in units of 2^-1074 (a transform is linear, so the unit
cancels on both sides of R27 (a)). -/
def Ideal.value (z : Cplx) : ℂ := ⟨(Fp.units z.re : ℝ), (Fp.units z.im : ℝ)⟩

/-- The sign of the exponent: minus forward, plus inverse (00_scope R23). -/
def Ideal.sign : Dir → ℤ
  | .fwd => -1
  | .inv => 1

/-- `X` is `DFT_FWD_n` or `DFT_INV_n` of `x`, exactly (00_scope R23, the reference of 41_precoder R204):
`X k = (1/sqrt n) * sum over m of x m * exp(± 2 pi i k m / n)`. -/
def Ideal.IsDft (dir : Dir) (n : Nat) (x X : Nat → ℂ) : Prop :=
  ∀ k, X k = ((1 / Real.sqrt n : ℝ) : ℂ) * ∑ m ∈ Finset.range n,
    x m * Complex.exp (Ideal.sign dir * 2 * Real.pi * Complex.I * (k * m) / n)

/-- FFT_ERR_REL of 00_scope R10, R27: 1e-12. -/
def Ideal.errRel : ℚ := 1 / 1000000000000

/-- R27 (a) for one input and output: `‖y − DFT(x)‖₂ ≤ FFT_ERR_REL · ‖x‖₂`, with every output
finite (00_scope R27). Both sides are squared. -/
def Ideal.Accurate (dir : Dir) (n : Nat) (x y : List Cplx) : Prop :=
  (∀ z ∈ y, Cx.isFinite z = true) ∧
  ∃ X : Nat → ℂ, Ideal.IsDft dir n (fun m => Ideal.value (x.getD m czero)) X ∧
    ∑ k ∈ Finset.range n, Complex.normSq (Ideal.value (y.getD k czero) - X k) ≤
      (Ideal.errRel : ℝ) ^ 2 *
        ∑ m ∈ Finset.range n, Complex.normSq (Ideal.value (x.getD m czero))

/-- The inputs R27 speaks of: "components are all finite with magnitude at most 2^500". -/
def Ideal.inDomain (x : List Cplx) : Bool :=
  x.all fun z => Cx.isFinite z &&
    decide (Fp.mag z.re ≤ 2 ^ 1574) && decide (Fp.mag z.im ≤ 2 ^ 1574)

/-- What 00_scope R27 asks of the output `y` of a transform of length `n` of the input `x`. (a) is asked
of it on every input for which any binary64 output meets the bound: where none does (inputs of a few
units, whose ideal outputs fall between subnormal numbers) no FFT_IMPL can meet it either (DEDUCED,
log 8). -/
structure Ideal.FftProperties (dir : Dir) (n : Nat) (x y : List Cplx) : Prop where
  /-- n outputs for a transform of length n -/
  length : y.length = n
  /-- (a) accuracy -/
  accurate : x.length = n → Ideal.inDomain x = true →
    (∃ z, z.length = n ∧ Ideal.Accurate dir n x z) → Ideal.Accurate dir n x y
  /-- (b) zero in, zero out, the signs free -/
  zero : x.length = n → x.all Cx.isZero = true → y.all Cx.isZero = true
  /-- (c) length one is the identity, bit-exact -/
  one : n = 1 → x.length = 1 → Ideal.inDomain x = true → y = x

/-- A possible FFT_IMPL (00_scope R10, R27): the matrix path and the FFT path are two of them
(41_precoder R204). The type makes it a function of `(dir, n, x)` (R25, R27 (d)). -/
structure FftImpl where
  /-- the function XFORM evaluates -/
  run : Dir → Nat → List Cplx → List Cplx
  /-- its properties -/
  meets : ∀ dir n x, Ideal.FftProperties dir n x (run dir n x)

/-- R28 for one finite positive argument other than 1: `y` is finite and within one unit in the last
place of the exact `log10 q`. `2^e` is the leading power of two of the exact value, so its last place
is `2^(e - 52)`. -/
def Ideal.Log10Within (q y : F64) : Prop :=
  Fp.isFinite y = true ∧ ∃ e : ℤ,
    (2 : ℝ) ^ e ≤ |Real.logb 10 ((Fp.mag q : ℝ) / 2 ^ 1074)| ∧
    |Real.logb 10 ((Fp.mag q : ℝ) / 2 ^ 1074)| < (2 : ℝ) ^ (e + 1) ∧
    |(Fp.units y : ℝ) / 2 ^ 1074 - Real.logb 10 ((Fp.mag q : ℝ) / 2 ^ 1074)| ≤ (2 : ℝ) ^ (e - 52)

/-- A possible LOG10_IMPL on finite positive arguments other than 1 (00_scope R10, R28): a function
of `q` alone, within one unit in the last place. -/
structure Log10Impl where
  /-- the function -/
  run : F64 → F64
  /-- its accuracy -/
  meets : ∀ q, Fp.isFinite q = true → Fp.lt 0 q = true → q ≠ Fp.one → Ideal.Log10Within q (run q)

end Sys2Proof.Machine
end

