-- ==== Sys2Proof/Config.lean ====
section
/-! DEFINITION. What is fixed for the block and not by its state: the implementation parameters of
00_scope R10, the identification constants of 10_state R48, and the free values, which are opaque: no
proof can learn more about them than their types say (93_implementation_defined U1 to U6, U17). -/

namespace Sys2Proof

/-- The ID register, a constant (10_state R48). -/
def Config.id : Word := 0x4F46444D

/-- The VERSION register, a constant (10_state R48). -/
def Config.version : Word := 0x00010000

/-- The smallest LOG2N (00_scope R10). -/
def Config.log2nMin : Nat := 3

/-- The largest LOG2N (00_scope R10). -/
def Config.log2nMax : Nat := 11

/-- The smallest Nc (00_scope R10). -/
def Config.ncMin : Nat := 2

/-- PILOT_SPACING (00_scope R10). -/
def Config.pilotSpacing : Nat := 6

/-- SYM_CAP (00_scope R10). -/
def Config.symCap : Nat := 2048

/-- PIL_CAP and PRX_CAP (00_scope R10). -/
def Config.pilCap : Nat := 512

/-- FREQ_CAP, EQ_CAP and CHAN_CAP (00_scope R10). -/
def Config.freqCap : Nat := 2048

/-- TIME_CAP (00_scope R10). -/
def Config.timeCap : Nat := 4096

/-- BITS_CAP, in bits (00_scope R10). -/
def Config.bitsCap : Nat := 12288

/-- EPS at reset, the binary64 nearest to 1e-6 (00_scope R10, 10_state R51). -/
def Config.epsReset : F64 := 0x3EB0C6F7A0B5ED8D

/-- FFT_IMPL: some function with the properties of 00_scope R27, and no more is known of it
(93 U1 to U3; DEDUCED, logs 8 and 9). The bracketed argument only shows Lean that such functions
exist. -/
opaque Config.fftImpl [Inhabited Machine.FftImpl] : Machine.FftImpl

/-- LOG10_IMPL on finite positive arguments other than 1: some function with the accuracy of
00_scope R28 (93 U4; DEDUCED, log 10). -/
opaque Config.log10Impl [Inhabited Machine.Log10Impl] : Machine.Log10Impl

/-- The free pattern of a stored NaN (00_scope R26, 93 U5; DEDUCED, log 7): by draw, place and index. -/
opaque Config.nanBits : Nat → Nat → Nat → F64

/-- The free byte that an address of a buffer holds before it is written (10_state R72, 93 U6, U7,
U17; DEDUCED, log 4): by generation of unspecified contents and by address. -/
opaque Config.ramByte : Nat → Nat → Byte

end Sys2Proof
end

