-- ==== Sys2Proof/Syntax.lean ====
section
/-! DEFINITION. The fourteen commands of the block, one constructor for each row of
spec/opcode_table.json (30_encoding R143). -/

namespace Sys2Proof

/-- The source select of a format-S command (30_encoding R141): SRC = 0 is FREQ, SRC = 1 is EQ. -/
inductive Src where
  /-- SRC = 0 -/
  | freq
  /-- SRC = 1 -/
  | eq
  deriving DecidableEq, Repr

/-- A command. A format-C command carries CNT, "the unsigned integer zext_32(w[23:0])"
(30_encoding R142), as a natural number; `Instr.wellFormed` says that it fits the field (DEDUCED, log 20). -/
inductive Instr where
  /-- NOP (40_config_grid R170) -/
  | nop
  /-- CONFIG (40_config_grid R171) -/
  | config
  /-- PRECODE L (41_precoder R200) -/
  | precode (cnt : Nat)
  /-- DECODE L (41_precoder R201) -/
  | decode (cnt : Nat)
  /-- MAP D (42_mapper R220) -/
  | map (cnt : Nat)
  /-- EXTRACT_DATA src (42_mapper R221) -/
  | extractData (src : Src)
  /-- EXTRACT_PILOTS src (42_mapper R222) -/
  | extractPilots (src : Src)
  /-- IFFT_CP (43_ofdm R240) -/
  | ifftCp
  /-- CP_FFT L (43_ofdm R241) -/
  | cpFft (cnt : Nat)
  /-- CHEST (44_chest R260) -/
  | chest
  /-- EQUALIZE (45_equalizer R280) -/
  | equalize
  /-- QAM_MAP L (46_qam R293) -/
  | qamMap (cnt : Nat)
  /-- QAM_DEMAP S (46_qam R294) -/
  | qamDemap (cnt : Nat)
  /-- QAM_DETECT S (46_qam R295) -/
  | qamDetect (cnt : Nat)
  deriving DecidableEq, Repr

end Sys2Proof
end

