-- ==== Sys2Proof/WellFormed.lean ====
section
/-! DEFINITION. Which terms of `Instr` are commands: a count must fit the 24-bit CNT field
(30_encoding R141, R142). A SRC is one bit by its type, and a format-Z command has no operand. -/

namespace Sys2Proof

/-- The largest CNT plus one: CNT is 0 to 16777215 (30_encoding R141). -/
def cntLimit : Nat := 16777216

/-- Every operand fits its field (30_encoding R141). -/
def Instr.wellFormed : Instr → Bool
  | .nop => true
  | .config => true
  | .precode cnt => decide (cnt < cntLimit)
  | .decode cnt => decide (cnt < cntLimit)
  | .map cnt => decide (cnt < cntLimit)
  | .extractData _ => true
  | .extractPilots _ => true
  | .ifftCp => true
  | .cpFft cnt => decide (cnt < cntLimit)
  | .chest => true
  | .equalize => true
  | .qamMap cnt => decide (cnt < cntLimit)
  | .qamDemap cnt => decide (cnt < cntLimit)
  | .qamDetect cnt => decide (cnt < cntLimit)

end Sys2Proof
end

