-- ==== Sys2Proof/Decode.lean ====
section
/-! DEFINITION. The decoder and the encoder of command words (30_encoding R140 to R144). The decoder
is total on 32-bit words; a word that is no command is rejected by name, with what ERR_INFO reports. -/

namespace Sys2Proof

/-- Why a word is no command (30_encoding R143, R144). -/
inductive DecodeError where
  /-- ILLEGAL_OPCODE: OPC is none of the fourteen; carries OPC. -/
  | illegalOpcode (opc : BitVec 8)
  /-- RESERVED_ARG: a ZERO field of a format-Z or format-S word is not 0; carries the whole ARG. -/
  | reservedArg (arg : BitVec 24)
  deriving DecidableEq, Repr

/-- OPC, bits 31:24 of a command word (30_encoding R140). -/
def opcField (w : Word) : BitVec 8 := w.extractLsb' 24 8

/-- ARG, bits 23:0 of a command word (30_encoding R140). -/
def argField (w : Word) : BitVec 24 := w.extractLsb' 0 24

/-- Format Z: ARG must be 0 (30_encoding R141, R143). -/
def decodeZ (w : Word) (i : Instr) : Except DecodeError Instr :=
  if argField w = 0 then .ok i else .error (.reservedArg (argField w))

/-- Format C: CNT is the unsigned ARG (30_encoding R141, R142). -/
def decodeC (w : Word) (f : Nat → Instr) : Except DecodeError Instr :=
  .ok (f (argField w).toNat)

/-- Format S: SRC is bit 0 and bits 23:1 must be 0 (30_encoding R141, R143). -/
def decodeS (w : Word) (f : Src → Instr) : Except DecodeError Instr :=
  if w.extractLsb' 1 23 = 0 then .ok (f (if w.getLsbD 0 then .eq else .freq))
  else .error (.reservedArg (argField w))

/-- The opcode of each command (30_encoding R143). -/
def Instr.opcode : Instr → BitVec 8
  | .nop => 0x00
  | .config => 0x01
  | .precode _ => 0x10
  | .decode _ => 0x11
  | .map _ => 0x20
  | .extractData _ => 0x21
  | .extractPilots _ => 0x22
  | .ifftCp => 0x30
  | .cpFft _ => 0x31
  | .chest => 0x40
  | .equalize => 0x41
  | .qamMap _ => 0x50
  | .qamDemap _ => 0x51
  | .qamDetect _ => 0x52

/-- The decode procedure of 30_encoding R143. -/
def decode (w : Word) : Except DecodeError Instr :=
  match (opcField w).toNat with
  | 0x00 => decodeZ w .nop
  | 0x01 => decodeZ w .config
  | 0x10 => decodeC w .precode
  | 0x11 => decodeC w .decode
  | 0x20 => decodeC w .map
  | 0x21 => decodeS w .extractData
  | 0x22 => decodeS w .extractPilots
  | 0x30 => decodeZ w .ifftCp
  | 0x31 => decodeC w .cpFft
  | 0x40 => decodeZ w .chest
  | 0x41 => decodeZ w .equalize
  | 0x50 => decodeC w .qamMap
  | 0x51 => decodeC w .qamDemap
  | 0x52 => decodeC w .qamDetect
  | _ => .error (.illegalOpcode (opcField w))

/-- SRC as the ARG field that selects it (30_encoding R141). -/
def Src.arg : Src → BitVec 24
  | .freq => 0
  | .eq => 1

/-- The ARG field of each command (30_encoding R141, R146). -/
def Instr.arg : Instr → BitVec 24
  | .nop => 0
  | .config => 0
  | .precode cnt => BitVec.ofNat 24 cnt
  | .decode cnt => BitVec.ofNat 24 cnt
  | .map cnt => BitVec.ofNat 24 cnt
  | .extractData src => src.arg
  | .extractPilots src => src.arg
  | .ifftCp => 0
  | .cpFft cnt => BitVec.ofNat 24 cnt
  | .chest => 0
  | .equalize => 0
  | .qamMap cnt => BitVec.ofNat 24 cnt
  | .qamDemap cnt => BitVec.ofNat 24 cnt
  | .qamDetect cnt => BitVec.ofNat 24 cnt

/-- The word of a command: `{OPC, ARG}` (30_encoding R140, R146). -/
def encode (i : Instr) : Word := i.opcode ++ i.arg

/-- The instruction the decoder reads from the table's bits `w`; the command is one 32-bit word, and
bits at or above `nbits` are 0. -/
def decodeTableWord (nbits w : Nat) : Option Instr :=
  (decode (BitVec.ofNat 32 (w % 2 ^ nbits))).toOption

end Sys2Proof
end

