-- ==== Sys2Proof/Machine/State.lean ====
section
/-! DEFINITION. The state of the block as plain data: the engine, the control and status registers
(10_state R42 to R60), the eight buffers as one byte memory (10_state R70, 20_memory R101), and the
model's own fields (the schedule, the read data, the generations of unspecified contents). Reset values
are those of 10_state R90. -/

namespace Sys2Proof.Machine

/-- Why the machine stops with a fault: never. "No behaviour of the block is stuck" (93 section 1);
every error is a completion (60_exceptions R311) and every bad access a sticky flag (20_memory R102,
R103, R110), which are next states (DEDUCED, log 17). So the type has no constructor. -/
inductive Fault where
  deriving DecidableEq, Repr

/-- Why a command is refused. -/
inductive Refusal where
  /-- Raised by an arm of `exec` that has no meaning yet, of which there is none. Safe: the machine
  stops where the hardware goes on. -/
  | notModelled (mnemonic : String)
  deriving DecidableEq, Repr

/-- The engine: `Idle`, or `Pending(w)` with the accepted command word (10_state R80). -/
inductive Engine where
  /-- no command -/
  | idle
  /-- an accepted command that has not run -/
  | pending (w : Word)
  deriving DecidableEq, Repr

/-- The error codes of 60_exceptions R312. The reserved codes 0x0E to 0xFF are never written, so they
are no values of this type (DEDUCED, log 21). -/
inductive ErrCode where
  /-- 0x00 -/
  | ok
  /-- 0x01 -/
  | illegalOpcode
  /-- 0x02 -/
  | reservedArg
  /-- 0x03 -/
  | notConfigured
  /-- 0x04 -/
  | cfgMod
  /-- 0x05 -/
  | cfgLog2n
  /-- 0x06 -/
  | cfgNc
  /-- 0x07 -/
  | cfgCp
  /-- 0x08 -/
  | mode
  /-- 0x09 -/
  | capacity
  /-- 0x0A -/
  | bitLen
  /-- 0x0B -/
  | sizeMismatch
  /-- 0x0C -/
  | noPilots
  /-- 0x0D -/
  | pilotZero
  deriving DecidableEq, Repr

/-- STATUS without BUSY, which is the engine's state read (10_state R45, R80; DEDUCED, log 19). -/
structure Status where
  /-- bit 1, W1C -/
  done : Bool
  /-- bit 2, W1C -/
  err : Bool
  /-- bit 3 -/
  cfgValid : Bool
  /-- bit 4, W1C -/
  cmdOvr : Bool
  /-- bit 5, W1C -/
  hostConflict : Bool
  /-- bit 6, W1C -/
  busErr : Bool
  /-- bit 7, W1C -/
  degen : Bool
  /-- bits 15:8 -/
  errCode : ErrCode
  /-- bits 23:16 -/
  lastOp : BitVec 8
  deriving DecidableEq, Repr

/-- IRQ_EN (10_state R46). -/
structure IrqEnable where
  /-- DONE_IE, bit 0 -/
  doneIe : Bool
  /-- ERR_IE, bit 1 -/
  errIe : Bool
  /-- FAULT_IE, bit 2 -/
  faultIe : Bool
  /-- DEGEN_IE, bit 3 -/
  degenIe : Bool
  deriving DecidableEq, Repr

/-- The host-writable configuration: CFG0 and CFG1 (the shadow, 10_state R49, R50), EPS (R51), GRID_K
(R52) and CTRL.SCFDM_EN (R44). -/
structure HostConfig where
  /-- CFG0.LOG2N, bits 3:0 -/
  log2n : BitVec 4
  /-- CFG0.MOD, bits 5:4 -/
  mod : BitVec 2
  /-- CFG0.MODE, bit 8: false LTE, true SIMPLE -/
  simple : Bool
  /-- CFG1.NC, bits 11:0 -/
  nc : BitVec 12
  /-- CFG1.CP, bits 27:16 -/
  cp : BitVec 12
  /-- EPS_LO -/
  epsLo : Word
  /-- EPS_HI -/
  epsHi : Word
  /-- GRID_K, bits 11:0 -/
  gridK : BitVec 12
  /-- CTRL.SCFDM_EN -/
  scfdmEn : Bool
  deriving DecidableEq, Repr

/-- The active configuration and the derived grid registers, written only by a successful CONFIG and
by reset (10_state R54, R55). -/
structure Active where
  /-- ACT_N -/
  n : BitVec 13
  /-- ACT_NC -/
  nc : BitVec 12
  /-- ACT_CP -/
  cp : BitVec 12
  /-- ACT_CFG.LOG2N -/
  log2n : BitVec 4
  /-- ACT_CFG.MOD -/
  mod : BitVec 2
  /-- ACT_CFG.MODE: false LTE, true SIMPLE -/
  simple : Bool
  /-- ACT_CFG.BPS -/
  bps : BitVec 4
  /-- GUARD_LEFT -/
  guardLeft : BitVec 12
  /-- GUARD_RIGHT -/
  guardRight : BitVec 12
  /-- DC_INDEX -/
  dcIndex : BitVec 12
  /-- DATA_COUNT, the document's M -/
  dataCount : BitVec 12
  /-- PILOT_COUNT, the document's P -/
  pilotCount : BitVec 12
  /-- TIME_LEN -/
  timeLen : BitVec 13
  deriving DecidableEq, Repr

/-- The result registers (10_state R56 to R60). -/
structure Results where
  /-- OUT_LEN -/
  outLen : BitVec 24
  /-- MAP_DATA -/
  mapData : BitVec 12
  /-- MAP_PILOT -/
  mapPilot : BitVec 12
  /-- MAP_NULL -/
  mapNull : BitVec 12
  /-- RX_PAD -/
  rxPad : BitVec 13
  /-- DEGEN_COUNT -/
  degenCount : BitVec 12
  /-- SNR_DB -/
  snrDb : F64
  /-- SNR_SIG -/
  snrSig : F64
  /-- SNR_NOISE -/
  snrNoise : F64
  deriving DecidableEq, Repr

/-- The eight buffers (10_state R70). -/
inductive Buffer where
  /-- BITS -/
  | bits
  /-- PIL -/
  | pil
  /-- PRX -/
  | prx
  /-- SYM -/
  | sym
  /-- FREQ -/
  | freq
  /-- EQ -/
  | eq
  /-- CHAN -/
  | chan
  /-- TIME -/
  | time
  deriving DecidableEq, Repr

/-- The buffers' contents: (byte address, byte) pairs. An address that is not listed holds no value
that anything has written (10_state R72). -/
abbrev Memory := List Host.Cell

/-- The canonical form: addresses strictly rising. No entry can equal what an unlisted address reads
as, because an unlisted address holds no value at all; so equal contents are equal lists. -/
abbrev Memory.wf (m : Memory) : Prop := m.Pairwise fun a b => a.1 < b.1

/-- For each buffer, which generation of unspecified contents its unwritten bytes show. The model's own
(DESIGN CHOICE, log 5). -/
structure Epochs where
  /-- generation of BITS -/
  bits : Nat
  /-- generation of PIL -/
  pil : Nat
  /-- generation of PRX -/
  prx : Nat
  /-- generation of SYM -/
  sym : Nat
  /-- generation of FREQ -/
  freq : Nat
  /-- generation of EQ -/
  eq : Nat
  /-- generation of CHAN -/
  chan : Nat
  /-- generation of TIME -/
  time : Nat
  deriving DecidableEq, Repr

/-- One event of the block's history (20_memory R120): a host transaction (20_memory R100), an
assertion of the reset input (70_reset R340), or the engine's turn (10_state R81). -/
inductive Event where
  /-- `MemRead(addr, 4)` -/
  | memRead (addr : Addr)
  /-- `MemWrite(addr, 4, v)` -/
  | memWrite (addr : Addr) (v : Word)
  /-- hardware reset -/
  | hardReset
  /-- the engine runs the pending command, if there is one -/
  | engineTurn
  deriving DecidableEq, Repr

/-- The block. The last four fields are the model's own, no register of the spec. -/
structure State where
  /-- Idle or Pending (10_state R80) -/
  engine : Engine
  /-- the last accepted command word (10_state R43) -/
  cmdLast : Word
  /-- STATUS (10_state R45) -/
  status : Status
  /-- IRQ_EN (10_state R46) -/
  irqEn : IrqEnable
  /-- ERR_INFO (10_state R47) -/
  errInfo : Word
  /-- the host-writable configuration registers (10_state R44, R49 to R52) -/
  cfg : HostConfig
  /-- the active configuration (10_state R54, R55) -/
  active : Active
  /-- the result registers (10_state R56 to R60) -/
  results : Results
  /-- the buffers (10_state R70) -/
  mem : Memory
  /-- generations of unspecified buffer contents (DESIGN CHOICE, log 5) -/
  epochs : Epochs
  /-- the next unused draw of free values (DESIGN CHOICE, log 5) -/
  draw : Nat
  /-- the events still to come (DESIGN CHOICE, log 1) -/
  sched : List Event
  /-- the word the last MemRead returned (DESIGN CHOICE, log 3) -/
  rdata : Word
  deriving DecidableEq, Repr

/-- STATUS after reset: 0x00000000 with BUSY 0 (10_state R90). -/
def Status.reset : Status :=
  { done := false, err := false, cfgValid := false, cmdOvr := false, hostConflict := false,
    busErr := false, degen := false, errCode := .ok, lastOp := 0 }

/-- IRQ_EN after reset (10_state R90). -/
def IrqEnable.reset : IrqEnable :=
  { doneIe := false, errIe := false, faultIe := false, degenIe := false }

/-- CFG0, CFG1, EPS, GRID_K and CTRL after reset (10_state R90). -/
def HostConfig.reset : HostConfig :=
  { log2n := 0, mod := 0, simple := false, nc := 0, cp := 0,
    epsLo := 0xA0B5ED8D, epsHi := 0x3EB0C6F7, gridK := 0, scfdmEn := false }

/-- The active configuration after reset (10_state R90). -/
def Active.reset : Active :=
  { n := 0, nc := 0, cp := 0, log2n := 0, mod := 0, simple := false, bps := 0, guardLeft := 0,
    guardRight := 0, dcIndex := 0, dataCount := 0, pilotCount := 0, timeLen := 0 }

/-- The result registers after reset (10_state R90). -/
def Results.reset : Results :=
  { outLen := 0, mapData := 0, mapPilot := 0, mapNull := 0, rxPad := 0, degenCount := 0,
    snrDb := 0, snrSig := 0, snrNoise := 0 }

/-- Every buffer at one generation. -/
def Epochs.all (d : Nat) : Epochs :=
  { bits := d, pil := d, prx := d, sym := d, freq := d, eq := d, chan := d, time := d }

/-- The block right after a hardware reset (70_reset R340, 10_state R90), with nothing scheduled. -/
def State.reset : State :=
  { engine := .idle, cmdLast := 0, status := .reset, irqEn := .reset, errInfo := 0, cfg := .reset,
    active := .reset, results := .reset, mem := [], epochs := .all 0, draw := 1, sched := [],
    rdata := 0 }

end Sys2Proof.Machine
end

