-- ==== Sys2Proof/Machine/Memory.lean ====
section
/-! DEFINITION. The byte memory that holds the eight buffers (10_state R70, 20_memory R101): finding a
byte, writing a run of bytes and forgetting a run of bytes, each keeping the canonical form. -/

namespace Sys2Proof.Machine

/-- The byte that something has written at an address, if anything has. -/
def Memory.lookup : Memory → Nat → Option Byte
  | [], _ => none
  | (k, v) :: m, a => if k = a then some v else Memory.lookup m a

/-- A run of bytes as entries at rising addresses. -/
def Memory.cells : Nat → List Byte → Memory
  | _, [] => []
  | a, b :: bs => (a, b) :: Memory.cells (a + 1) bs

/-- Writes `bs` at `a, a + 1, …`; every other address keeps what it held (10_state R71). -/
def Memory.writeBlock (m : Memory) (a : Nat) (bs : List Byte) : Memory :=
  m.filter (fun c => decide (c.1 < a)) ++ Memory.cells a bs ++
    m.filter (fun c => decide (a + bs.length ≤ c.1))

/-- Forgets the `n` bytes from `a` on: they hold no value again (70_reset R341). -/
def Memory.eraseBlock (m : Memory) (a n : Nat) : Memory :=
  m.filter fun c => decide (c.1 < a) || decide (a + n ≤ c.1)

/-- The first byte address of a buffer (20_memory R101). -/
def Buffer.base : Buffer → Nat
  | .bits => 0x02000
  | .pil => 0x04000
  | .prx => 0x06000
  | .sym => 0x08000
  | .freq => 0x10000
  | .eq => 0x18000
  | .chan => 0x20000
  | .time => 0x30000

/-- The size of a buffer in bytes (20_memory R101): its capacity (00_scope R10) times 16 bytes an
element (20_memory R106), or a bit each for BITS (R107). -/
def Buffer.size : Buffer → Nat
  | .bits => Config.bitsCap / 8
  | .pil => Config.pilCap * 16
  | .prx => Config.pilCap * 16
  | .sym => Config.symCap * 16
  | .freq => Config.freqCap * 16
  | .eq => Config.freqCap * 16
  | .chan => Config.freqCap * 16
  | .time => Config.timeCap * 16

/-- An address lies in a buffer. -/
def Buffer.holds (b : Buffer) (a : Nat) : Bool :=
  decide (b.base ≤ a) && decide (a < b.base + b.size)

/-- The eight buffers. -/
def Buffer.list : List Buffer := [.bits, .pil, .prx, .sym, .freq, .eq, .chan, .time]

/-- The buffer that holds an address, if one does (20_memory R101). -/
def Buffer.ofAddr? (a : Nat) : Option Buffer := Buffer.list.find? fun b => b.holds a

/-- The generation of a buffer's unspecified contents. -/
def Epochs.get (e : Epochs) : Buffer → Nat
  | .bits => e.bits
  | .pil => e.pil
  | .prx => e.prx
  | .sym => e.sym
  | .freq => e.freq
  | .eq => e.eq
  | .chan => e.chan
  | .time => e.time

/-- Gives a buffer a new generation of unspecified contents. -/
def Epochs.set (e : Epochs) (b : Buffer) (d : Nat) : Epochs :=
  match b with
  | .bits => { e with bits := d }
  | .pil => { e with pil := d }
  | .prx => { e with prx := d }
  | .sym => { e with sym := d }
  | .freq => { e with freq := d }
  | .eq => { e with eq := d }
  | .chan => { e with chan := d }
  | .time => { e with time := d }

/-- The generation that an address of a buffer shows while unwritten. -/
def Epochs.ofAddr (e : Epochs) (a : Nat) : Nat :=
  match Buffer.ofAddr? a with
  | some b => e.get b
  | none => 0

end Sys2Proof.Machine
end

