-- ==== Sys2Proof/Machine/Ops.lean ====
section
/-! DEFINITION. The named operations over the buffers, and the two ends of every command: successful
completion (60_exceptions R310) and TAKING AN ERROR (60_exceptions R311). The block has no return from
an error: the host clears the flags (60_exceptions R317). -/

namespace Sys2Proof.Machine

/-- STATUS.BUSY = 1 exactly when the engine is Pending (10_state R80). -/
def State.busy (s : State) : Bool :=
  match s.engine with
  | .idle => false
  | .pending _ => true

/-- One byte of a buffer. What nothing has written since hardware reset is a free value, the same at
every read (10_state R72; DEDUCED, log 4). -/
def State.byte (s : State) (a : Nat) : Byte :=
  match s.mem.lookup a with
  | some v => v
  | none => Config.ramByte (s.epochs.ofAddr a) a

/-- A 32-bit word, little-endian (20_memory R104). -/
def State.word32 (s : State) (a : Nat) : Word :=
  s.byte (a + 3) ++ s.byte (a + 2) ++ s.byte (a + 1) ++ s.byte a

/-- A binary64 value: bits 31:0 at `a`, bits 63:32 at `a + 4` (20_memory R105). -/
def State.word64 (s : State) (a : Nat) : F64 := s.word32 (a + 4) ++ s.word32 a

/-- The bytes of a 32-bit word, little-endian (20_memory R104). -/
def wordBytes (w : Word) : List Byte :=
  [w.extractLsb' 0 8, w.extractLsb' 8 8, w.extractLsb' 16 8, w.extractLsb' 24 8]

/-- The bytes of a binary64 value, low word first (20_memory R105). -/
def f64Bytes (d : F64) : List Byte :=
  wordBytes (d.extractLsb' 0 32) ++ wordBytes (d.extractLsb' 32 32)

/-- The 16 bytes of a complex element: re, then im (20_memory R106). -/
def cplxBytes (z : Cplx) : List Byte := f64Bytes z.re ++ f64Bytes z.im

/-- The byte address of element `i` of a complex buffer (20_memory R106). -/
def Buffer.elemAddr (b : Buffer) (i : Nat) : Nat := b.base + 16 * i

/-- `BUF[i]` (00_scope R14). -/
def State.elem (s : State) (b : Buffer) (i : Nat) : Cplx :=
  ⟨s.word64 (b.elemAddr i), s.word64 (b.elemAddr i + 8)⟩

/-- `BUF[0..n)` (00_scope R14). -/
def State.elems (s : State) (b : Buffer) (n : Nat) : List Cplx := (List.range n).map (s.elem b)

/-- `BITS.bit(i)` (20_memory R107). -/
def State.bit (s : State) (i : Nat) : Bool :=
  (s.byte (Buffer.bits.base + i / 8)).getLsbD (i % 8)

/-- Stores a run of bytes. -/
def State.writeBytes (s : State) (a : Nat) (bs : List Byte) : State :=
  { s with mem := s.mem.writeBlock a bs }

/-- `BUF[0..n) <- zs` with `n` the length of `zs`, in one store (00_scope R14, 10_state R71). -/
def State.writeElems (s : State) (b : Buffer) (zs : List Cplx) : State :=
  s.writeBytes b.base (zs.flatMap cplxBytes)

/-- A byte from its eight bits, bit 0 first. -/
def packByte (f : Nat → Bool) : Byte :=
  BitVec.ofBool (f 7) ++ BitVec.ofBool (f 6) ++ BitVec.ofBool (f 5) ++ BitVec.ofBool (f 4) ++
  BitVec.ofBool (f 3) ++ BitVec.ofBool (f 2) ++ BitVec.ofBool (f 1) ++ BitVec.ofBool (f 0)

/-- `BITS.bit(i) <- bs[i]` for every `i` below the length of `bs`; "every other BITS bit is unchanged,
including the unused high bits of the last partly written byte" (46_qam R294). -/
def State.writeBits (s : State) (bs : List Bool) : State :=
  s.writeBytes Buffer.bits.base <|
    (List.range ((bs.length + 7) / 8)).map fun j =>
      packByte fun t => bs.getD (8 * j + t) (s.bit (8 * j + t))

/-- A buffer's contents become unspecified: no byte of it holds a written value, and it shows a new
generation of free bytes (70_reset R341; DEDUCED, log 6). -/
def State.unspecify (s : State) (b : Buffer) : State :=
  { s with mem := s.mem.eraseBlock b.base b.size, epochs := s.epochs.set b s.draw,
           draw := s.draw + 1 }

/-- `complete(out_len)`: successful completion of a command with opcode `op` (60_exceptions R310).
STATUS.ERR is sticky and stays. -/
def State.complete (s : State) (op : BitVec 8) (outLen : Nat) : State :=
  { s with
    engine := .idle
    errInfo := 0
    status := { s.status with done := true, errCode := .ok, lastOp := op }
    results := { s.results with outLen := BitVec.ofNat 24 outLen } }

/-- `raise Error(code, info)`: the one operation by which a command takes an error (60_exceptions
R311). Nothing but the completion fields changes. -/
def State.raiseError (s : State) (op : BitVec 8) (code : ErrCode) (info : Nat) : State :=
  { s with
    engine := .idle
    errInfo := BitVec.ofNat 32 info
    status := { s.status with done := true, err := true, errCode := code, lastOp := op } }

/-- The pending command is a word that decodes to no command: ILLEGAL_OPCODE with the opcode, or
RESERVED_ARG with the whole ARG (30_encoding R143, 60_exceptions R313). -/
def State.rejectWord (s : State) (w : Word) : DecodeError → State
  | .illegalOpcode opc => s.raiseError (opcField w) .illegalOpcode opc.toNat
  | .reservedArg arg => s.raiseError (opcField w) .reservedArg arg.toNat

/-- A CMD write while idle accepts the word (10_state R43). -/
def State.accept (s : State) (w : Word) : State :=
  { s with engine := .pending w, cmdLast := w }

end Sys2Proof.Machine
end

