-- ==== Sys2Proof/Machine/Flags.lean ====
section
/-! DEFINITION. The status flags: STATUS and IRQ_EN as the host reads and writes them (10_state R45,
R46), the flags of host-port events (20_memory R102, R103, R110), and the interrupt output
(60_exceptions R320). The block has no condition codes (10_state R63). -/

namespace Sys2Proof.Machine

/-- The number of an error code (60_exceptions R312). -/
def ErrCode.toByte : ErrCode → BitVec 8
  | .ok => 0x00
  | .illegalOpcode => 0x01
  | .reservedArg => 0x02
  | .notConfigured => 0x03
  | .cfgMod => 0x04
  | .cfgLog2n => 0x05
  | .cfgNc => 0x06
  | .cfgCp => 0x07
  | .mode => 0x08
  | .capacity => 0x09
  | .bitLen => 0x0A
  | .sizeMismatch => 0x0B
  | .noPilots => 0x0C
  | .pilotZero => 0x0D

/-- STATUS as the host reads it (10_state R45). -/
def State.statusWord (s : State) : Word :=
  (0 : BitVec 8) ++ s.status.lastOp ++ s.status.errCode.toByte ++
  BitVec.ofBool s.status.degen ++ BitVec.ofBool s.status.busErr ++
  BitVec.ofBool s.status.hostConflict ++ BitVec.ofBool s.status.cmdOvr ++
  BitVec.ofBool s.status.cfgValid ++ BitVec.ofBool s.status.err ++
  BitVec.ofBool s.status.done ++ BitVec.ofBool s.busy

/-- A STATUS write clears the W1C bits written as 1 and changes nothing else (10_state R45). -/
def Status.clear (st : Status) (v : Word) : Status :=
  { st with
    done := st.done && !v.getLsbD 1
    err := st.err && !v.getLsbD 2
    cmdOvr := st.cmdOvr && !v.getLsbD 4
    hostConflict := st.hostConflict && !v.getLsbD 5
    busErr := st.busErr && !v.getLsbD 6
    degen := st.degen && !v.getLsbD 7 }

/-- IRQ_EN as the host reads it (10_state R46). -/
def IrqEnable.word (e : IrqEnable) : Word :=
  (0 : BitVec 28) ++ BitVec.ofBool e.degenIe ++ BitVec.ofBool e.faultIe ++
  BitVec.ofBool e.errIe ++ BitVec.ofBool e.doneIe

/-- IRQ_EN from the word the host writes (10_state R46). -/
def IrqEnable.ofWord (v : Word) : IrqEnable :=
  { doneIe := v.getLsbD 0, errIe := v.getLsbD 1, faultIe := v.getLsbD 2, degenIe := v.getLsbD 3 }

/-- `STATUS.BUS_ERR <- 1` (20_memory R102, R103). -/
def State.flagBusErr (s : State) : State := { s with status := { s.status with busErr := true } }

/-- `STATUS.HOST_CONFLICT <- 1` (20_memory R110). -/
def State.flagConflict (s : State) : State :=
  { s with status := { s.status with hostConflict := true } }

/-- `STATUS.CMD_OVR <- 1` (10_state R43). -/
def State.flagCmdOvr (s : State) : State := { s with status := { s.status with cmdOvr := true } }

/-- `STATUS.DEGEN <- 1` when `any` (45_equalizer R280: sticky, never cleared by the engine). -/
def State.flagDegen (s : State) (any : Bool) : State :=
  { s with status := { s.status with degen := s.status.degen || any } }

/-- The interrupt output, a level (60_exceptions R320). -/
def State.irq (s : State) : Bool :=
  (s.status.done && s.irqEn.doneIe) || (s.status.err && s.irqEn.errIe) ||
  ((s.status.cmdOvr || s.status.hostConflict || s.status.busErr) && s.irqEn.faultIe) ||
  (s.status.degen && s.irqEn.degenIe)

end Sys2Proof.Machine
end

