-- ==== Sys2Proof/Machine/Grid.lean ====
section
/-! DEFINITION. The resource grid (40_config_grid R172 to R174): a function of N and Nc alone. -/

namespace Sys2Proof.Machine

/-- The class of a subcarrier (40_config_grid R173). -/
inductive Carrier where
  /-- carries data -/
  | data
  /-- carries a pilot -/
  | pilot
  /-- the DC subcarrier N/2 -/
  | dc
  /-- outside the useful band -/
  | guard
  deriving DecidableEq, Repr

/-- A grid: the FFT size and the number of useful subcarriers. -/
structure Grid where
  /-- N -/
  n : Nat
  /-- Nc -/
  nc : Nat
  deriving DecidableEq, Repr

/-- guard_left (40_config_grid R172). -/
def Grid.guardLeft (g : Grid) : Nat := (g.n - g.nc) / 2

/-- guard_right (40_config_grid R172). -/
def Grid.guardRight (g : Grid) : Nat := g.n - g.nc - g.guardLeft

/-- dc_index (40_config_grid R172). -/
def Grid.dc (g : Grid) : Nat := g.n / 2

/-- `classify(k)` (40_config_grid R173), in its priority order: guard, dc, pilot, data. -/
def Grid.classify (g : Grid) (k : Nat) : Carrier :=
  if k < g.guardLeft ∨ g.n - g.guardRight ≤ k then .guard
  else if k = g.dc then .dc
  else if (k - g.guardLeft) % Config.pilotSpacing = Config.pilotSpacing / 2 then .pilot
  else .data

/-- The subcarriers of a class, ascending (40_config_grid R174). -/
def Grid.indices (g : Grid) (c : Carrier) : List Nat :=
  (List.range g.n).filter fun k => g.classify k == c

/-- How many subcarriers a class has: M for data, P for pilots (40_config_grid R172). -/
def Grid.count (g : Grid) (c : Carrier) : Nat := (g.indices c).length

/-- The position of `k` in the ascending list of its own class (10_state R53 ORD). -/
def Grid.ordinal (g : Grid) (k : Nat) : Nat :=
  ((List.range k).filter fun k' => g.classify k' == g.classify k).length

/-- `data_index(i)` (40_config_grid R174). -/
def Grid.dataIndex (g : Grid) (i : Nat) : Nat := (g.indices .data).getD i 0

/-- `pilot_index(j)` (40_config_grid R174). -/
def Grid.pilotIndex (g : Grid) (j : Nat) : Nat := (g.indices .pilot).getD j 0

/-- TYPE of GRID_INFO (10_state R53). -/
def Carrier.toBits : Carrier → BitVec 2
  | .data => 0
  | .pilot => 1
  | .dc => 2
  | .guard => 3

end Sys2Proof.Machine
end

