-- ==== Sys2Proof/Machine/Operands.lean ====
section
/-! DEFINITION. The operands of the commands: the active values they read under the document's names
(10_state R54, R55), the source select (30_encoding R141), and ε (10_state R51). A count operand is the
CNT the instruction carries (30_encoding R142). -/

namespace Sys2Proof.Machine

/-- N, the active FFT size ACT_N. -/
def State.N (s : State) : Nat := s.active.n.toNat

/-- Nc, the active number of useful subcarriers ACT_NC. -/
def State.Nc (s : State) : Nat := s.active.nc.toNat

/-- CP, the active prefix length ACT_CP. -/
def State.CP (s : State) : Nat := s.active.cp.toNat

/-- M, the number of data subcarriers DATA_COUNT (41_precoder R203). -/
def State.M (s : State) : Nat := s.active.dataCount.toNat

/-- P, the number of pilot subcarriers PILOT_COUNT. -/
def State.P (s : State) : Nat := s.active.pilotCount.toNat

/-- bps, the bits of a symbol, ACT_CFG.BPS (46_qam R296). -/
def State.bps (s : State) : Nat := s.active.bps.toNat

/-- The active resource grid (40_config_grid R173: it depends only on N and Nc; DEDUCED, log 14). -/
def State.grid (s : State) : Grid := ⟨s.N, s.Nc⟩

/-- ε as binary64, `{EPS_HI, EPS_LO}` (10_state R51). -/
def State.eps (s : State) : F64 := s.cfg.epsHi ++ s.cfg.epsLo

/-- The buffer that SRC selects (30_encoding R141). -/
def srcBuffer : Src → Buffer
  | .freq => .freq
  | .eq => .eq

end Sys2Proof.Machine
end

