-- ==== Sys2Proof/Laws/Parameters.lean ====
section
/-! SUPPORT. The properties that 00_scope R27 and R28 ask of the two open parameters can be met: every input
of a transform has an output with the properties of R27, and every finite positive argument of the
logarithm other than 1 has a value as near as R28 asks. -/

namespace Sys2Proof.Machine

/-! ### A transform's output -/

/-- A zero is no units. -/
theorem Fp.units_of_isZero {x : F64} (h : Fp.isZero x = true) : Fp.units x = 0 := by
  simp [Fp.isZero] at h
  simp [Fp.units, Fp.mag, h]

theorem Cx.isFinite_of_isZero {z : Cplx} (h : Cx.isZero z = true) : Cx.isFinite z = true := by
  simp [Cx.isZero, Fp.isZero] at h
  simp [Cx.isFinite, Fp.isFinite, h]

theorem Ideal.value_of_isZero {z : Cplx} (h : Cx.isZero z = true) : Ideal.value z = 0 := by
  simp only [Cx.isZero, Bool.and_eq_true] at h
  apply Complex.ext <;> simp [Ideal.value, Fp.units_of_isZero h.1, Fp.units_of_isZero h.2]

/-- An input of length one is its own accurate transform. -/
theorem Ideal.accurate_one (dir : Dir) {x : List Cplx} (hx : Ideal.inDomain x = true) :
    Ideal.Accurate dir 1 x x := by
  refine ⟨fun z hz => ?_, fun _ => Ideal.value (x.getD 0 czero), fun k => by simp, ?_⟩
  · simp only [Ideal.inDomain, List.all_eq_true, Bool.and_eq_true] at hx
    exact (hx z hz).1.1
  · simp only [Finset.sum_range_one, sub_self, map_zero]
    exact mul_nonneg (sq_nonneg _) (Complex.normSq_nonneg _)

/-- An all-zero input is its own accurate transform. -/
theorem Ideal.accurate_zero (dir : Dir) (n : Nat) {x : List Cplx} (hx : x.all Cx.isZero = true) :
    Ideal.Accurate dir n x x := by
  rw [List.all_eq_true] at hx
  have hv : ∀ k, Ideal.value (x.getD k czero) = 0 := fun k => by
    rw [List.getD_eq_getElem?_getD]
    cases h : x[k]? with
    | none => exact Ideal.value_of_isZero (by decide)
    | some z => exact Ideal.value_of_isZero (hx z (List.mem_of_getElem? h))
  refine ⟨fun z hz => Cx.isFinite_of_isZero (hx z hz), fun _ => 0, fun k => ?_, ?_⟩
  · simp only [hv, zero_mul, Finset.sum_const_zero, mul_zero]
  · simp only [hv, sub_self, map_zero, Finset.sum_const_zero, mul_zero, le_refl]

/-- Every input of a transform has an output with the properties of 00_scope R27. -/
theorem Ideal.exists_output (dir : Dir) (n : Nat) (x : List Cplx) :
    ∃ y, Ideal.FftProperties dir n x y := by
  by_cases hl : x.length = n
  · by_cases h1 : n = 1 ∧ Ideal.inDomain x = true
    · obtain ⟨rfl, hd⟩ := h1
      exact ⟨x, hl, fun _ _ _ => Ideal.accurate_one dir hd, fun _ h => h, fun _ _ _ => rfl⟩
    by_cases hz : x.all Cx.isZero = true
    · exact ⟨x, hl, fun _ _ _ => Ideal.accurate_zero dir n hz, fun _ h => h, fun _ _ _ => rfl⟩
    by_cases ha : ∃ y, y.length = n ∧ Ideal.Accurate dir n x y
    · obtain ⟨y, hy, ha⟩ := ha
      exact ⟨y, hy, fun _ _ _ => ha, fun _ h => absurd h hz, fun h _ hd => absurd ⟨h, hd⟩ h1⟩
    · exact ⟨x, hl, fun _ _ h => absurd h ha, fun _ h => h, fun _ _ _ => rfl⟩
  · exact ⟨List.replicate n czero, by simp, fun h => absurd h hl, fun h => absurd h hl,
      fun hn h => absurd (h.trans hn.symm) hl⟩

/-! ### A logarithm's value -/

/-- The binary64 pattern with the given sign, exponent field and fraction. -/
def Fp.ofFields (neg : Bool) (e f : Nat) : F64 :=
  BitVec.ofNat 64 ((if neg then 2 ^ 63 else 0) + e * 2 ^ 52 + f)

/-- The fields read back. -/
theorem Fp.toNat_ofFields (neg : Bool) {e f : Nat} (he : e < 2 ^ 11) (hf : f < 2 ^ 52) :
    (Fp.ofFields neg e f).toNat = (if neg then 2 ^ 63 else 0) + e * 2 ^ 52 + f := by
  rw [Fp.ofFields, BitVec.toNat_ofNat, Nat.mod_eq_of_lt]
  split <;> omega

theorem Fp.expo_ofFields (neg : Bool) {e f : Nat} (he : e < 2 ^ 11) (hf : f < 2 ^ 52) :
    Fp.expo (Fp.ofFields neg e f) = e := by
  rw [Fp.expo, BitVec.extractLsb'_toNat, Fp.toNat_ofFields neg he hf, Nat.shiftRight_eq_div_pow]
  split <;> omega

theorem Fp.frac_ofFields (neg : Bool) {e f : Nat} (he : e < 2 ^ 11) (hf : f < 2 ^ 52) :
    Fp.frac (Fp.ofFields neg e f) = f := by
  rw [Fp.frac, BitVec.extractLsb'_toNat, Fp.toNat_ofFields neg he hf, Nat.shiftRight_eq_div_pow]
  split <;> omega
theorem Fp.sign_ofFields (neg : Bool) {e f : Nat} (he : e < 2 ^ 11) (hf : f < 2 ^ 52) :
    Fp.sign (Fp.ofFields neg e f) = neg := by
  rw [Fp.sign, BitVec.getLsbD, Fp.toNat_ofFields neg he hf, Nat.testBit_eq_decide_div_mod_eq]
  cases neg <;> simp <;> omega

/-- Every real number `r` with `2^e ≤ |r| < 2^(e+1)`, `e` an exponent of normal binary64 values, has a
binary64 within one unit in the last place. -/
theorem Fp.exists_within {r : ℝ} {e : ℤ} (h0 : (2 : ℝ) ^ e ≤ |r|) (h1 : |r| < (2 : ℝ) ^ (e + 1))
    (hlo : -1022 ≤ e) (hhi : e ≤ 1023) :
    ∃ y, Fp.isFinite y = true ∧ |(Fp.units y : ℝ) / 2 ^ 1074 - r| ≤ (2 : ℝ) ^ (e - 52) := by
  obtain ⟨k, rfl⟩ : ∃ k : ℕ, e = k - 1022 := ⟨(e + 1022).toNat, by omega⟩
  have hk : k < 2046 := by omega
  set u : ℝ := (2 : ℝ) ^ ((k : ℤ) - 1022 - 52) with hu
  have hupos : 0 < u := by positivity
  have hpow (j : ℤ) : (2 : ℝ) ^ ((k : ℤ) - 1022 - 52 + j) = u * 2 ^ j := zpow_add₀ two_ne_zero _ _
  have hl : (2 : ℝ) ^ 52 * u ≤ |r| := by
    have := hpow 52
    rw [show (k : ℤ) - 1022 - 52 + 52 = k - 1022 by ring] at this
    rw [this] at h0
    calc (2 : ℝ) ^ 52 * u = u * 2 ^ (52 : ℤ) := by rw [mul_comm]; norm_cast
      _ ≤ |r| := h0
  have hh : |r| < (2 : ℝ) ^ 53 * u := by
    have := hpow 53
    rw [show (k : ℤ) - 1022 - 52 + 53 = k - 1022 + 1 by ring] at this
    rw [this] at h1
    calc |r| < u * 2 ^ (53 : ℤ) := h1
      _ = (2 : ℝ) ^ 53 * u := by rw [mul_comm]; norm_cast
  obtain ⟨m, hm⟩ : ∃ m, m = ⌊|r| / u⌋₊ := ⟨_, rfl⟩
  have hmle : (m : ℝ) * u ≤ |r| := by
    rw [← le_div_iff₀ hupos, hm]; exact Nat.floor_le (by positivity)
  have hmlt : |r| < ((m : ℝ) + 1) * u := by
    rw [← div_lt_iff₀ hupos, hm]; exact Nat.lt_floor_add_one _
  have hm0 : 2 ^ 52 ≤ m := by
    rw [hm]; apply Nat.le_floor; rw [le_div_iff₀ hupos]; exact_mod_cast hl
  have hm1 : m < 2 ^ 53 := by
    rw [hm, Nat.floor_lt (by positivity), div_lt_iff₀ hupos]; exact_mod_cast hh
  have hf : m - 2 ^ 52 < 2 ^ 52 := by omega
  refine ⟨Fp.ofFields (decide (r < 0)) (k + 1) (m - 2 ^ 52), ?_, ?_⟩
  · rw [Fp.isFinite, Fp.expo_ofFields _ (by omega) hf]
    simp; omega
  · have hmag : Fp.mag (Fp.ofFields (decide (r < 0)) (k + 1) (m - 2 ^ 52)) = m * 2 ^ k := by
      rw [Fp.mag, Fp.expo_ofFields _ (by omega) hf, Fp.frac_ofFields _ (by omega) hf, if_neg (by omega),
        Nat.add_sub_cancel' hm0, Nat.add_sub_cancel]
    have hval : ((m * 2 ^ k : ℕ) : ℝ) / 2 ^ 1074 = m * u := by
      rw [hu, show (k : ℤ) - 1022 - 52 = (k : ℤ) - (1074 : ℕ) by push_cast; ring,
        zpow_sub₀ two_ne_zero, zpow_natCast, zpow_natCast]
      push_cast; ring
    rw [Fp.units, Fp.sign_ofFields _ (by omega) hf, hmag]
    rcases lt_or_ge r 0 with hr | hr
    · rw [if_pos (by simpa using hr)]
      rw [abs_of_neg hr] at hmle hmlt
      rw [show (((-((m * 2 ^ k : ℕ) : ℤ) : ℤ) : ℝ)) / 2 ^ 1074 = -(m * u) by rw [← hval]; push_cast; ring]
      rw [abs_le]; constructor <;> linarith
    · rw [if_neg (by simpa using hr)]
      rw [abs_of_nonneg hr] at hmle hmlt
      rw [show ((((m * 2 ^ k : ℕ) : ℤ) : ℝ)) / 2 ^ 1074 = m * u by rw [← hval]; push_cast; ring]
      rw [abs_le]; constructor <;> linarith

/-- The fields of 1.0 are those of no other value. -/
theorem Fp.eq_one_of_fields {q : F64} (hs : Fp.sign q = false) (he : Fp.expo q = 1023)
    (hf : Fp.frac q = 0) : q = Fp.one := by
  apply BitVec.eq_of_toNat_eq
  have hlt := q.isLt
  rw [Fp.sign, BitVec.getLsbD, Nat.testBit_eq_decide_div_mod_eq, decide_eq_false_iff_not] at hs
  rw [Fp.expo, BitVec.extractLsb'_toNat, Nat.shiftRight_eq_div_pow] at he
  rw [Fp.frac, BitVec.extractLsb'_toNat, Nat.shiftRight_eq_div_pow] at hf
  have h1 : Fp.one.toNat = 1023 * 2 ^ 52 := by decide
  omega

/-- The field widths. -/
theorem Fp.expo_lt (q : F64) : Fp.expo q < 2048 := (q.extractLsb' 52 11).isLt

theorem Fp.frac_lt (q : F64) : Fp.frac q < 2 ^ 52 := (q.extractLsb' 0 52).isLt

/-- A positive binary64 other than 1 is at least `2^-53` away from 1. -/
theorem Fp.mag_away_from_one {q : F64} (hq : q ≠ Fp.one) (hs : Fp.sign q = false) :
    Fp.mag q + 2 ^ 1021 ≤ 2 ^ 53 * 2 ^ 1021 ∨ (2 ^ 53 + 1) * 2 ^ 1021 ≤ Fp.mag q := by
  have hf := Fp.frac_lt q
  unfold Fp.mag
  have hpow {a b : ℕ} (h : a ≤ b) : 2 ^ a ≤ 2 ^ b := Nat.pow_le_pow_right (by omega) h
  rcases lt_trichotomy (Fp.expo q) 1023 with he | he | he
  · left
    have hm : (if Fp.expo q = 0 then Fp.frac q else (2 ^ 52 + Fp.frac q) * 2 ^ (Fp.expo q - 1)) ≤
        (2 ^ 53 - 1) * 2 ^ 1021 := by
      split
      · exact le_trans (by omega) (Nat.le_mul_of_pos_right _ (by positivity))
      · exact Nat.mul_le_mul (by omega) (hpow (by omega))
    calc _ ≤ (2 ^ 53 - 1) * 2 ^ 1021 + 2 ^ 1021 := Nat.add_le_add_right hm _
      _ = 2 ^ 53 * 2 ^ 1021 := by
        rw [← Nat.succ_mul]; congr 1
  · right
    have h0 : Fp.frac q ≠ 0 := fun h0 => hq (Fp.eq_one_of_fields hs he h0)
    rw [he, if_neg (by omega), show (1023 - 1 : ℕ) = 1 + 1021 from rfl, pow_add, ← mul_assoc]
    exact Nat.mul_le_mul_right _ (by omega)
  · right
    rw [if_neg (by omega)]
    calc (2 ^ 53 + 1) * 2 ^ 1021 ≤ (2 ^ 52 * 2 ^ 2) * 2 ^ 1021 := Nat.mul_le_mul_right _ (by norm_num)
      _ = 2 ^ 52 * 2 ^ 1023 := by rw [mul_assoc, ← pow_add]
      _ ≤ _ := Nat.mul_le_mul (by omega) (hpow (by omega))

/-- Every finite magnitude is below 2^1024, in units. -/
theorem Fp.mag_lt {q : F64} (hf : Fp.isFinite q = true) : Fp.mag q < 2 ^ 2098 := by
  have h1 := Fp.frac_lt q
  have h2 := Fp.expo_lt q
  simp only [Fp.isFinite, bne_iff_ne] at hf
  unfold Fp.mag
  split
  · exact lt_of_lt_of_le h1 (Nat.pow_le_pow_right (by omega) (by omega))
  · calc _ < 2 ^ 53 * 2 ^ (Fp.expo q - 1) := Nat.mul_lt_mul_of_pos_right (by omega) (by positivity)
      _ ≤ 2 ^ 53 * 2 ^ 2045 := Nat.mul_le_mul_left _ (Nat.pow_le_pow_right (by omega) (by omega))
      _ = 2 ^ 2098 := by rw [← pow_add]

/-- The exact logarithm of a finite positive binary64 other than 1 is neither tiny nor large. -/
theorem Fp.logb_bounds {q : F64} (hf : Fp.isFinite q = true) (hpos : Fp.lt 0 q = true)
    (hq : q ≠ Fp.one) :
    (2 : ℝ) ^ (-100 : ℤ) ≤ |Real.logb 10 ((Fp.mag q : ℝ) / 2 ^ 1074)| ∧
      |Real.logb 10 ((Fp.mag q : ℝ) / 2 ^ 1074)| < (2 : ℝ) ^ (100 : ℤ) := by
  have hun : 0 < Fp.units q := by
    have h0 : Fp.units 0 = 0 := Fp.units_of_isZero (by decide)
    simp only [Fp.lt, Bool.and_eq_true, decide_eq_true_eq, h0] at hpos
    exact hpos.2
  have hs : Fp.sign q = false := by
    by_contra h
    rw [Fp.units, if_pos (by simpa using h)] at hun
    omega
  have hm : 0 < Fp.mag q := by
    rw [Fp.units, if_neg (by simp [hs])] at hun
    omega
  set v : ℝ := (Fp.mag q : ℝ) / 2 ^ 1074 with hv
  have hvpos : 0 < v := div_pos (by exact_mod_cast hm) (by positivity)
  have hln : Real.log 10 ≤ 9 := by
    have := Real.log_le_sub_one_of_pos (show (0 : ℝ) < 10 by norm_num); linarith
  have hln1 : 1 ≤ Real.log 10 := by
    rw [Real.le_log_iff_exp_le (by norm_num)]; have := Real.exp_one_lt_d9; linarith
  have hlow : (1 : ℝ) / 2 ^ 54 ≤ |Real.log v| := by
    have h53 : (2 : ℝ) ^ 1074 = 2 ^ 53 * 2 ^ 1021 := by rw [← pow_add]
    have hpos' : (0 : ℝ) < 2 ^ 1021 := by positivity
    rcases Fp.mag_away_from_one hq hs with h | h
    · have hle : v ≤ 1 - 1 / 2 ^ 53 := by
        rw [hv, div_le_iff₀ (by positivity), h53]
        have h' : (Fp.mag q : ℝ) + 2 ^ 1021 ≤ 2 ^ 53 * 2 ^ 1021 := by exact_mod_cast h
        generalize (2 : ℝ) ^ 1021 = t at *
        norm_num at *
        linarith
      have := Real.log_le_sub_one_of_pos hvpos
      rw [abs_of_neg (by linarith [show (0 : ℝ) < 1 / 2 ^ 53 by positivity])]
      have h2 : (1 : ℝ) / 2 ^ 54 ≤ 1 / 2 ^ 53 := by norm_num
      linarith
    · have hle : 1 + 1 / 2 ^ 53 ≤ v := by
        rw [hv, le_div_iff₀ (by positivity), h53]
        have h' : ((2 : ℝ) ^ 53 + 1) * 2 ^ 1021 ≤ (Fp.mag q : ℝ) := by exact_mod_cast h
        generalize (2 : ℝ) ^ 1021 = t at *
        norm_num at *
        linarith
      have h1 := Real.one_sub_inv_le_log_of_pos hvpos
      have h2 : v⁻¹ ≤ (1 + 1 / 2 ^ 53)⁻¹ := inv_anti₀ (by positivity) hle
      have h3 : (1 : ℝ) / 2 ^ 54 ≤ 1 - (1 + 1 / 2 ^ 53)⁻¹ := by norm_num
      exact le_trans (by linarith) (le_abs_self _)
  have hhigh : |Real.log v| ≤ 2098 := by
    have hl2 : Real.log 2 ≤ 1 := by have := Real.log_two_lt_d9; linarith
    have hl0 : 0 ≤ Real.log 2 := Real.log_nonneg (by norm_num)
    have hlog : Real.log v = Real.log (Fp.mag q) - 1074 * Real.log 2 := by
      rw [hv, Real.log_div (by exact_mod_cast hm.ne') (by positivity), Real.log_pow]; norm_num
    have ha : 0 ≤ Real.log (Fp.mag q) := Real.log_natCast_nonneg _
    have hb : Real.log (Fp.mag q) ≤ 2098 * Real.log 2 := by
      have : (Fp.mag q : ℝ) ≤ 2 ^ 2098 := by have h := (Fp.mag_lt hf).le; generalize (2098 : ℕ) = k at *; exact_mod_cast h
      calc Real.log (Fp.mag q) ≤ Real.log (2 ^ 2098) := Real.log_le_log (by exact_mod_cast hm) this
        _ = 2098 * Real.log 2 := by rw [Real.log_pow]; norm_num
    rw [abs_le]; constructor <;> nlinarith
  rw [Real.logb, abs_div, abs_of_pos (by linarith : 0 < Real.log 10)]
  constructor
  · rw [le_div_iff₀ (by linarith)]
    calc (2 : ℝ) ^ (-100 : ℤ) * Real.log 10 ≤ 2 ^ (-100 : ℤ) * 9 := by gcongr
      _ ≤ 1 / 2 ^ 54 := by norm_num
      _ ≤ _ := hlow
  · rw [div_lt_iff₀ (by linarith)]
    calc _ ≤ (2098 : ℝ) := hhigh
      _ < 2 ^ (100 : ℤ) * 1 := by norm_num
      _ ≤ _ := by gcongr
/-- Every finite positive binary64 other than 1 has a value within one unit in the last place of its
exact logarithm (00_scope R28). -/
theorem Ideal.exists_log10 {q : F64} (hf : Fp.isFinite q = true) (hpos : Fp.lt 0 q = true)
    (hq : q ≠ Fp.one) : ∃ y, Ideal.Log10Within q y := by
  obtain ⟨hlo, hhi⟩ := Fp.logb_bounds hf hpos hq
  set r := Real.logb 10 ((Fp.mag q : ℝ) / 2 ^ 1074) with hr
  have hr0 : 0 < |r| := lt_of_lt_of_le (by positivity) hlo
  have h0 : (2 : ℝ) ^ Int.log 2 |r| ≤ |r| := Int.zpow_log_le_self one_lt_two hr0
  have h1 : |r| < (2 : ℝ) ^ (Int.log 2 |r| + 1) := Int.lt_zpow_succ_log_self one_lt_two _
  have hl : (-100 : ℤ) < Int.log 2 |r| + 1 :=
    (zpow_lt_zpow_iff_right₀ (one_lt_two (α := ℝ))).1 (hlo.trans_lt h1)
  have hh : Int.log 2 |r| < 100 :=
    (zpow_lt_zpow_iff_right₀ (one_lt_two (α := ℝ))).1 (h0.trans_lt hhi)
  obtain ⟨y, hy, hn⟩ := Fp.exists_within h0 h1 (by omega) (by omega)
  exact ⟨y, hy, _, h0, h1, hn⟩

end Sys2Proof.Machine
end

