-- ==== Sys2Proof/Machine/Possible.lean ====
section
/-! DEFINITION. A possible FFT_IMPL and a possible LOG10_IMPL, so that the opaque constants of Config
have a type with a value. They exist by Laws/Parameters.lean, and no more is known of them: nothing that a
command computes can be learnt here. -/

namespace Sys2Proof.Machine

/-- Some value of a type that has one. Its equation says nothing about which. -/
def Possible.some {α : Type} [Nonempty α] (u : Unit) : α := Possible.some u
partial_fixpoint

/-- Some output with the properties of 00_scope R27. -/
def Possible.output (dir : Dir) (n : Nat) (x : List Cplx) : { y // Ideal.FftProperties dir n x y } :=
  @Possible.some _ (nonempty_subtype.2 (Ideal.exists_output dir n x)) ()

/-- A possible FFT_IMPL. -/
def Possible.fftImpl : FftImpl :=
  ⟨fun dir n x => (Possible.output dir n x).1, fun dir n x => (Possible.output dir n x).2⟩

/-- Some value that 00_scope R28 allows for one argument. -/
def Possible.log10 (q : F64) :
    { y // Fp.isFinite q = true → Fp.lt 0 q = true → q ≠ Fp.one → Ideal.Log10Within q y } :=
  @Possible.some _ (nonempty_subtype.2 (by
    by_cases h : Fp.isFinite q = true ∧ Fp.lt 0 q = true ∧ q ≠ Fp.one
    · exact (Ideal.exists_log10 h.1 h.2.1 h.2.2).imp fun _ hy _ _ _ => hy
    · exact ⟨0, fun h1 h2 h3 => absurd ⟨h1, h2, h3⟩ h⟩)) ()

/-- A possible LOG10_IMPL. -/
def Possible.log10Impl : Log10Impl :=
  ⟨fun q => (Possible.log10 q).1, fun q => (Possible.log10 q).2⟩

end Sys2Proof.Machine
end

