-- ==== Sys2Proof/Machine/Transform.lean ====
section
/-! DEFINITION. The functions of the numeric units that the spec leaves open in part, as the commands
call them: XFORM (00_scope R25), LOG10_IMPL (R28) and a NaN with free sign and payload (R26). -/

namespace Sys2Proof.Machine

/-- `XFORM(dir, n, x) = FFT_IMPL(dir, n, x)` (00_scope R25). -/
def xform (dir : Dir) (n : Nat) (x : List Cplx) : List Cplx :=
  (@Config.fftImpl ⟨Possible.fftImpl⟩).run dir n x

/-- `LOG10_IMPL(q)` for `q ≥ 0` or NaN (00_scope R28). The sign bit is not looked at: a caller's `q`
is never negative. -/
def log10 (q : F64) : F64 :=
  if Fp.isNaN q then Fp.qnan
  else if Fp.isInf q then Fp.posInf
  else if Fp.isZero q then Fp.negInf
  else if q = Fp.one then 0
  else (@Config.log10Impl ⟨Possible.log10Impl⟩).run q

/-- A NaN whose sign and payload are free (00_scope R26, DEDUCED, log 7): every NaN pattern is possible. -/
def freeNaN (draw place i : Nat) : F64 :=
  let b := Config.nanBits draw place i
  if Fp.isNaN b then b else Fp.qnan

/-- The stored form of a formula's result: a NaN gets its free pattern, any other value is itself. -/
def storeF64 (draw place i : Nat) (x : F64) : F64 :=
  if Fp.isNaN x then freeNaN draw place i else x

/-- The stored form of a complex result, its two components drawn apart. -/
def storeCplx (draw place i : Nat) (z : Cplx) : Cplx :=
  ⟨storeF64 draw place (2 * i) z.re, storeF64 draw place (2 * i + 1) z.im⟩

end Sys2Proof.Machine
end

