-- ==== Sys2Proof/Machine/ChannelEstimator.lean ====
section
/-! DEFINITION. The channel estimator (44_chest R260 to R264). The places of the NaN draws (DEDUCED, log 7) are
0 for the pilot estimates, 1 for the interpolated values and 2 for the SNR registers. -/

namespace Sys2Proof.Machine

/-- Y[j], the received pilot FREQ[pilot_index(j)] (44_chest R260). -/
def State.pilotRx (s : State) (j : Nat) : Cplx := s.elem .freq (s.grid.pilotIndex j)

/-- X[j], the transmitted pilot PIL[j] (44_chest R260). -/
def State.pilotTx (s : State) (j : Nat) : Cplx := s.elem .pil j

/-- The lowest j < P with `cabs2(PIL[j]) == 0` (44_chest R261). -/
def State.zeroPilot (s : State) : Option Nat :=
  (List.range s.P).find? fun j => Fp.eq (Cx.abs2 (s.pilotTx j)) 0

/-- Hp[j], the least-squares estimate `cdiv(Y[j], X[j])` (44_chest R261). -/
def State.pilotEstimate (s : State) (j : Nat) : Cplx :=
  storeCplx s.draw 0 j (Cx.div (s.pilotRx j) (s.pilotTx j))

/-- One component between two pilots `dx` apart, `t` past the first: `fl(fl(fl(b - a) / dx) * t) + a`
(44_chest R262). -/
def lerp (a b : F64) (dx t : Nat) : F64 :=
  Fp.add (Fp.mul (Fp.div (Fp.sub b a) (Fp.ofNat dx)) (Fp.ofNat t)) a

/-- `interp(k)` over the pilots (index, estimate) in rising order (44_chest R262): flat below the first
and above the last, exact at a pilot, linear between two. -/
def interp (draw k : Nat) : List (Nat × Cplx) → Cplx
  | [] => czero
  | [(_, h)] => h
  | (p, h) :: (p', h') :: rest =>
    if k ≤ p then h
    else if k < p' then
      storeCplx draw 1 k
        ⟨lerp h.re h'.re (p' - p) (k - p), lerp h.im h'.im (p' - p) (k - p)⟩
    else interp draw k ((p', h') :: rest)

/-- The pilots with their estimates, in rising order (44_chest R260). -/
def State.pilotPoints (s : State) : List (Nat × Cplx) :=
  (List.range s.P).map fun j => (s.grid.pilotIndex j, s.pilotEstimate j)

/-- The two sums of the SNR, over the pairs (Y, X) in rising order (44_chest R264). -/
def snrSums (pairs : List (Cplx × Cplx)) : F64 × F64 :=
  pairs.foldl (fun acc p => (Fp.add acc.1 (Cx.abs2 p.1),
    Fp.add acc.2 (Cx.abs2 (Cx.sub p.1 p.2)))) (0, 0)

/-- `snr(X, Y)` as (db, sig, noise) (44_chest R264). -/
def snr (pairs : List (Cplx × Cplx)) : F64 × F64 × F64 :=
  let sums := snrSums pairs
  let p := Fp.ofNat pairs.length
  let sig := Fp.div sums.1 p
  let noise := Fp.div sums.2 p
  (Fp.mul (Fp.ofNat 10) (log10 (Fp.div sig noise)), sig, noise)

/-- What a successful CHEST writes before it completes (44_chest R260). -/
def State.estimated (s : State) : State :=
  let points := s.pilotPoints
  let r := snr ((List.range s.P).map fun j => (s.pilotRx j, s.pilotTx j))
  let t := s.writeElems .chan ((List.range s.N).map fun k => interp s.draw k points)
  { t with
    draw := s.draw + 1
    results := { t.results with
      snrDb := storeF64 s.draw 2 0 r.1
      snrSig := storeF64 s.draw 2 1 r.2.1
      snrNoise := storeF64 s.draw 2 2 r.2.2 } }

/-- CHEST (44_chest R260): checks in the order NOT_CONFIGURED, MODE, NO_PILOTS, PILOT_ZERO. -/
def execChest (s : State) : Host.Outcome State Fault Refusal :=
  let op := Instr.opcode .chest
  .next <|
    if !s.status.cfgValid then s.raiseError op .notConfigured 0
    else if s.active.simple then s.raiseError op .mode 1
    else if s.P = 0 then s.raiseError op .noPilots 0
    else match s.zeroPilot with
      | some j => s.raiseError op .pilotZero j
      | none => s.estimated.complete op s.N

end Sys2Proof.Machine
end

