-- ==== Sys2Proof/Machine/Control.lean ====
section
/-! DEFINITION. NOP and CONFIG (40_config_grid R170 to R172). -/

namespace Sys2Proof.Machine

/-- NOP (40_config_grid R170). -/
def execNop (s : State) : Host.Outcome State Fault Refusal :=
  .next (s.complete (Instr.opcode .nop) 0)

/-- bps of a MOD value (40_config_grid R172): 2 · (mod + 1). -/
def bitsPerSymbol (mod : Nat) : Nat := 2 * (mod + 1)

/-- What a legal CONFIG latches: the shadow's fields and the values derived from them
(40_config_grid R171, R172). Every value of a legal shadow fits its field (DEDUCED, log 16). -/
def HostConfig.derive (c : HostConfig) : Active :=
  let n := 2 ^ c.log2n.toNat
  let g : Grid := ⟨n, c.nc.toNat⟩
  { n := BitVec.ofNat 13 n
    nc := c.nc
    cp := c.cp
    log2n := c.log2n
    mod := c.mod
    simple := c.simple
    bps := BitVec.ofNat 4 (bitsPerSymbol c.mod.toNat)
    guardLeft := BitVec.ofNat 12 g.guardLeft
    guardRight := BitVec.ofNat 12 g.guardRight
    dcIndex := BitVec.ofNat 12 g.dc
    dataCount := BitVec.ofNat 12 (g.count .data)
    pilotCount := BitVec.ofNat 12 (g.count .pilot)
    timeLen := BitVec.ofNat 13 (n + c.cp.toNat) }

/-- The first check of CONFIG that fails, with its ERR_INFO, in the order CFG_MOD, CFG_LOG2N, CFG_NC,
CFG_CP (40_config_grid R171, 60_exceptions R312). -/
def HostConfig.check (c : HostConfig) : Option (ErrCode × Nat) :=
  let n := 2 ^ c.log2n.toNat
  if c.mod = 3 then some (.cfgMod, c.mod.toNat)
  else if c.log2n.toNat < Config.log2nMin ∨ Config.log2nMax < c.log2n.toNat then
    some (.cfgLog2n, c.log2n.toNat)
  else if c.nc.toNat < Config.ncMin ∨ n < c.nc.toNat then some (.cfgNc, c.nc.toNat)
  else if n < c.cp.toNat then some (.cfgCp, c.cp.toNat)
  else none

/-- CONFIG (40_config_grid R171). -/
def execConfig (s : State) : Host.Outcome State Fault Refusal :=
  match s.cfg.check with
  | some (code, info) => .next (s.raiseError (Instr.opcode .config) code info)
  | none =>
    .next (State.complete
      { s with active := s.cfg.derive, status := { s.status with cfgValid := true } }
      (Instr.opcode .config) 0)

end Sys2Proof.Machine
end

