-- ==== Sys2Proof/Machine/Equalizer.lean ====
section
/-! DEFINITION. The zero-forcing equalizer (45_equalizer R280). The place of its NaN draws (DEDUCED, log 7)
is 3. -/

namespace Sys2Proof.Machine

/-- The regularized denominator of index k: ε added to the real part of CHAN[k] (45_equalizer R280). -/
def State.regularized (s : State) (k : Nat) : Cplx :=
  ⟨Fp.add (s.elem .chan k).re s.eps, (s.elem .chan k).im⟩

/-- `den == 0` at index k (45_equalizer R280). -/
def State.degenerate (s : State) (k : Nat) : Bool := Fp.eq (Cx.abs2 (s.regularized k)) 0

/-- EQ[k]: CZERO where the denominator is zero, the quotient elsewhere (45_equalizer R280). -/
def State.equalized (s : State) (k : Nat) : Cplx :=
  if s.degenerate k then czero
  else storeCplx s.draw 3 k (Cx.div (s.elem .freq k) (s.regularized k))

/-- The number of indices below N whose denominator is zero (45_equalizer R280). -/
def State.degenerateCount (s : State) : Nat := ((List.range s.N).filter s.degenerate).length

/-- EQUALIZE (45_equalizer R280). -/
def execEqualize (s : State) : Host.Outcome State Fault Refusal :=
  let op := Instr.opcode .equalize
  .next <|
    if !s.status.cfgValid then s.raiseError op .notConfigured 0
    else
      let cnt := s.degenerateCount
      let t := s.writeElems .eq ((List.range s.N).map s.equalized)
      let t := { t with
        draw := s.draw + 1
        results := { t.results with degenCount := BitVec.ofNat 12 cnt } }
      (t.flagDegen (decide (0 < cnt))).complete op s.N

end Sys2Proof.Machine
end

