-- ==== Sys2Proof/Machine/Mapper.lean ====
section
/-! DEFINITION. The resource mapper and demappers (42_mapper R220 to R222). -/

namespace Sys2Proof.Machine

/-- FREQ[k] after a MAP of `d` symbols in LTE mode: SYM[i] at data_index(i) for i < d, PIL[j] at
pilot_index(j) for j < P, and CZERO everywhere else (42_mapper R220; GRID_INFO.ORD of data_index(i) is
i, 40_config_grid R174; DEDUCED, log 22). -/
def State.mapLte (s : State) (d k : Nat) : Cplx :=
  let i := s.grid.ordinal k
  match s.grid.classify k with
  | .data => if i < d then s.elem .sym i else czero
  | .pilot => if i < s.P then s.elem .pil i else czero
  | .dc => czero
  | .guard => czero

/-- FREQ[k] after a MAP of `d` symbols in SIMPLE mode (42_mapper R220). -/
def State.mapSimple (s : State) (d k : Nat) : Cplx :=
  if k < d then s.elem .sym k else czero

/-- Writes the spectrum of a MAP and its metadata (42_mapper R220). -/
def State.mapped (s : State) (cell : Nat → Cplx) (data pilots : Nat) : State :=
  let t := s.writeElems .freq ((List.range s.N).map cell)
  { t with results := { t.results with
      mapData := BitVec.ofNat 12 data
      mapPilot := BitVec.ofNat 12 pilots
      mapNull := BitVec.ofNat 12 (s.N - data - pilots) } }

/-- MAP (42_mapper R220). -/
def execMap (cnt : Nat) (s : State) : Host.Outcome State Fault Refusal :=
  let op := Instr.opcode (.map cnt)
  .next <|
    if !s.status.cfgValid then s.raiseError op .notConfigured 0
    else if Config.symCap < cnt then s.raiseError op .capacity Config.symCap
    else if s.active.simple then
      if s.Nc < cnt then s.raiseError op .sizeMismatch s.Nc
      else (s.mapped (s.mapSimple cnt) cnt 0).complete op s.N
    else
      if s.M < cnt then s.raiseError op .sizeMismatch s.M
      else (s.mapped (s.mapLte cnt) cnt s.P).complete op s.N

/-- EXTRACT_DATA (42_mapper R221). -/
def execExtractData (src : Src) (s : State) : Host.Outcome State Fault Refusal :=
  let op := Instr.opcode (.extractData src)
  .next <|
    if !s.status.cfgValid then s.raiseError op .notConfigured 0
    else if s.active.simple then
      (s.writeElems .sym (s.elems (srcBuffer src) s.Nc)).complete op s.Nc
    else
      (s.writeElems .sym
        ((List.range s.M).map fun i => s.elem (srcBuffer src) (s.grid.dataIndex i))).complete op s.M

/-- EXTRACT_PILOTS (42_mapper R222). -/
def execExtractPilots (src : Src) (s : State) : Host.Outcome State Fault Refusal :=
  let op := Instr.opcode (.extractPilots src)
  .next <|
    if !s.status.cfgValid then s.raiseError op .notConfigured 0
    else if s.active.simple then s.raiseError op .mode 1
    else
      (s.writeElems .prx
        ((List.range s.P).map fun j => s.elem (srcBuffer src) (s.grid.pilotIndex j))).complete op s.P

end Sys2Proof.Machine
end

