-- ==== Sys2Proof/Machine/Ofdm.lean ====
section
/-! DEFINITION. The OFDM modulator and demodulator (43_ofdm R240, R241). -/

namespace Sys2Proof.Machine

/-- A symbol `x` of length `n` with its cyclic prefix: the last `cp` samples, then all of it
(43_ofdm R240). -/
def withPrefix (n cp : Nat) (x : List Cplx) : List Cplx := x.drop (n - cp) ++ x

/-- IFFT_CP (43_ofdm R240). -/
def execIfftCp (s : State) : Host.Outcome State Fault Refusal :=
  let op := Instr.opcode .ifftCp
  .next <|
    if !s.status.cfgValid then s.raiseError op .notConfigured 0
    else
      (s.writeElems .time (withPrefix s.N s.CP (xform .inv s.N (s.elems .freq s.N)))).complete op
        (s.N + s.CP)

/-- The FFT input of CP_FFT: sample `n` is TIME[CP + n] when one of the `len` received samples, and
CZERO otherwise (43_ofdm R241; the padding is virtual and the prefix is never read). -/
def State.received (s : State) (len n : Nat) : Cplx :=
  if s.CP + n < len then s.elem .time (s.CP + n) else czero

/-- CP_FFT (43_ofdm R241). -/
def execCpFft (cnt : Nat) (s : State) : Host.Outcome State Fault Refusal :=
  let op := Instr.opcode (.cpFft cnt)
  .next <|
    if !s.status.cfgValid then s.raiseError op .notConfigured 0
    else if Config.timeCap < cnt then s.raiseError op .capacity Config.timeCap
    else if cnt = 0 then
      State.complete { s with results := { s.results with rxPad := 0 } } op 0
    else
      let t := s.writeElems .freq (xform .fwd s.N ((List.range s.N).map (s.received cnt)))
      State.complete
        { t with results := { t.results with rxPad := BitVec.ofNat 13 (s.N + s.CP - cnt) } } op s.N

end Sys2Proof.Machine
end

