-- ==== Sys2Proof/Machine/Precoder.lean ====
section
/-! DEFINITION. The DFT precoder and the IDFT decoder (41_precoder R200 to R203). -/

namespace Sys2Proof.Machine

/-- The command both rules share: checks in the order NOT_CONFIGURED, CAPACITY, SIZE_MISMATCH; the
transform in place when SCFDM_EN, and the identity, which reads and writes nothing and checks no size,
otherwise (41_precoder R200, R201, R202). -/
def precoder (dir : Dir) (op : BitVec 8) (cnt : Nat) (s : State) : State :=
  if !s.status.cfgValid then s.raiseError op .notConfigured 0
  else if Config.symCap < cnt then s.raiseError op .capacity Config.symCap
  else if !s.cfg.scfdmEn then s.complete op cnt
  else if cnt ≠ s.M then s.raiseError op .sizeMismatch s.M
  else (s.writeElems .sym (xform dir cnt (s.elems .sym cnt))).complete op cnt

/-- PRECODE (41_precoder R200): the forward transform. -/
def execPrecode (cnt : Nat) (s : State) : Host.Outcome State Fault Refusal :=
  .next (precoder .fwd (Instr.opcode (.precode cnt)) cnt s)

/-- DECODE (41_precoder R201): the inverse transform. -/
def execDecode (cnt : Nat) (s : State) : Host.Outcome State Fault Refusal :=
  .next (precoder .inv (Instr.opcode (.decode cnt)) cnt s)

end Sys2Proof.Machine
end

