-- ==== Sys2Proof/Machine/Qam.lean ====
section
/-! DEFINITION. The QAM symbol mapper, the hard-decision demapper and the detector (46_qam R290 to
R296). -/

namespace Sys2Proof.Machine

/-- The constellations (46_qam R291). -/
inductive Modulation where
  /-- bps 2, K 2 -/
  | qpsk
  /-- bps 4, K 10 -/
  | qam16
  /-- bps 6, K 42 -/
  | qam64
  deriving DecidableEq, Repr

/-- The constellation of a bps value (46_qam R291, R296; DESIGN CHOICE, log 15: only 2, 4 and 6 are reached). -/
def Modulation.ofBps (bps : Nat) : Modulation :=
  if bps = 2 then .qpsk else if bps = 4 then .qam16 else .qam64

/-- K, the mean energy of the integer levels (46_qam R291). -/
def Modulation.K : Modulation → Nat
  | .qpsk => 2
  | .qam16 => 10
  | .qam64 => 42

/-- How many bits select one coordinate: bps / 2 (46_qam R290). -/
def Modulation.axisBits : Modulation → Nat
  | .qpsk => 1
  | .qam16 => 2
  | .qam64 => 3

/-- A bit as an integer. -/
def bitInt (b : Bool) : Int := if b then 1 else 0

/-- `level(x, y, z)` of one coordinate, the closed forms of 46_qam R291. -/
def Modulation.level (m : Modulation) (x y z : Bool) : Int :=
  match m with
  | .qpsk => 1 - 2 * bitInt x
  | .qam16 => (1 - 2 * bitInt x) * (1 + 2 * bitInt y)
  | .qam64 => (1 - 2 * bitInt x) * (4 - (1 - 2 * bitInt y) * (2 - (1 - 2 * bitInt z)))

/-- The binary64 nearest to `l / sqrt K` for a level `l > 0`: the table of 46_qam R291. -/
def Modulation.magnitude (m : Modulation) (l : Nat) : F64 :=
  match m with
  | .qpsk => 0x3FE6A09E667F3BCD
  | .qam16 => if l = 1 then 0x3FD43D136248490F else 0x3FEE5B9D136C6D96
  | .qam64 =>
    if l = 1 then 0x3FC3C03650E00E03
    else if l = 3 then 0x3FDDA05179501504
    else if l = 5 then 0x3FE8B043E5181184
    else 0x3FF1482F86C40C43

/-- `coord(l)`, "with the sign bit set for a negative level" (46_qam R291). -/
def Modulation.coord (m : Modulation) (l : Int) : F64 :=
  let c := m.magnitude l.natAbs
  if l < 0 then c ||| Fp.signBit else c

/-- `point(b)`: even bits give the real coordinate, odd bits the imaginary one (46_qam R290, R291). -/
def Modulation.point (m : Modulation) (b : Nat → Bool) : Cplx :=
  ⟨m.coord (m.level (b 0) (b 2) (b 4)), m.coord (m.level (b 1) (b 3) (b 5))⟩

/-- The decided level of |x| in 64-QAM (46_qam R292). -/
def decideLevel64 (x : F64) : Nat :=
  if Fp.absExceeds 6 42 x then 7
  else if Fp.absExceeds 4 42 x then 5
  else if Fp.absExceeds 2 42 x then 3
  else 1

/-- The bits that one coordinate decides: (b0), (b0, b2) or (b0, b2, b4), those past the modulation's
own being false (46_qam R292). -/
def Modulation.decideAxis (m : Modulation) (x : F64) : Bool × Bool × Bool :=
  let sgn := Fp.lt x 0
  match m with
  | .qpsk => (sgn, false, false)
  | .qam16 => (sgn, Fp.absExceeds 2 10 x, false)
  | .qam64 =>
    let lvl := decideLevel64 x
    (sgn, decide (5 ≤ lvl), decide (lvl = 1 ∨ lvl = 7))

/-- `decide(z)`: the bit group b0, b1, … of the nearest point (46_qam R292): even bits from the real
part, odd bits from the imaginary part. -/
def Modulation.decideGroup (m : Modulation) (z : Cplx) : List Bool :=
  let i := m.decideAxis z.re
  let q := m.decideAxis z.im
  [i.1, q.1, i.2.1, q.2.1, i.2.2, q.2.2].take (2 * m.axisBits)

/-- A bit group as a function of its index. -/
def groupBit (b : List Bool) (t : Nat) : Bool := b.getD t false

/-- The active constellation (46_qam R296). -/
def State.modulation (s : State) : Modulation := Modulation.ofBps s.bps

/-- The symbol of group `k` of the BITS stream (46_qam R290, R291). -/
def State.symbolOfBits (s : State) (k : Nat) : Cplx :=
  s.modulation.point fun t => decide (t < s.bps) && s.bit (k * s.bps + t)

/-- QAM_MAP (46_qam R293). -/
def execQamMap (cnt : Nat) (s : State) : Host.Outcome State Fault Refusal :=
  let op := Instr.opcode (.qamMap cnt)
  .next <|
    if !s.status.cfgValid then s.raiseError op .notConfigured 0
    else if s.bps * Config.symCap < cnt then s.raiseError op .capacity (s.bps * Config.symCap)
    else if cnt % s.bps ≠ 0 then s.raiseError op .bitLen cnt
    else
      (s.writeElems .sym ((List.range (cnt / s.bps)).map s.symbolOfBits)).complete op (cnt / s.bps)

/-- QAM_DEMAP (46_qam R294). -/
def execQamDemap (cnt : Nat) (s : State) : Host.Outcome State Fault Refusal :=
  let op := Instr.opcode (.qamDemap cnt)
  .next <|
    if !s.status.cfgValid then s.raiseError op .notConfigured 0
    else if Config.symCap < cnt then s.raiseError op .capacity Config.symCap
    else
      (s.writeBits ((s.elems .sym cnt).flatMap s.modulation.decideGroup)).complete op (cnt * s.bps)

/-- The constellation point nearest to z: `point(decide(z))` (46_qam R295). -/
def Modulation.nearest (m : Modulation) (z : Cplx) : Cplx := m.point (groupBit (m.decideGroup z))

/-- QAM_DETECT (46_qam R295). -/
def execQamDetect (cnt : Nat) (s : State) : Host.Outcome State Fault Refusal :=
  let op := Instr.opcode (.qamDetect cnt)
  .next <|
    if !s.status.cfgValid then s.raiseError op .notConfigured 0
    else if Config.symCap < cnt then s.raiseError op .capacity Config.symCap
    else (s.writeElems .sym ((s.elems .sym cnt).map s.modulation.nearest)).complete op cnt

end Sys2Proof.Machine
end

