-- ==== Sys2Proof/Machine/Dispatch.lean ====
section
/-! DEFINITION. The meaning of each command (30_encoding R143): one arm per constructor. -/

namespace Sys2Proof.Machine

/-- The rule of one command, run to completion (10_state R81). -/
def exec (i : Instr) (s : State) : Host.Outcome State Fault Refusal :=
  match i with
  | .nop => Sys2Proof.Machine.execNop s
  | .config => Sys2Proof.Machine.execConfig s
  | .precode cnt => Sys2Proof.Machine.execPrecode cnt s
  | .decode cnt => Sys2Proof.Machine.execDecode cnt s
  | .map cnt => Sys2Proof.Machine.execMap cnt s
  | .extractData src => Sys2Proof.Machine.execExtractData src s
  | .extractPilots src => Sys2Proof.Machine.execExtractPilots src s
  | .ifftCp => Sys2Proof.Machine.execIfftCp s
  | .cpFft cnt => Sys2Proof.Machine.execCpFft cnt s
  | .chest => Sys2Proof.Machine.execChest s
  | .equalize => Sys2Proof.Machine.execEqualize s
  | .qamMap cnt => Sys2Proof.Machine.execQamMap cnt s
  | .qamDemap cnt => Sys2Proof.Machine.execQamDemap cnt s
  | .qamDetect cnt => Sys2Proof.Machine.execQamDetect cnt s

end Sys2Proof.Machine
end

