-- ==== Sys2Proof/Machine/Reset.lean ====
section
/-! DEFINITION. The two resets (70_reset R340, R341). -/

namespace Sys2Proof.Machine

/-- The buffer that the command of an opcode may write: the written-by column of 10_state R70. "The
opcode alone selects the command" (30_encoding R140), so the ARG field is not looked at (DEDUCED, log 6). -/
def writtenBuffer (opc : BitVec 8) : Option Buffer :=
  match opc.toNat with
  | 0x10 => some .sym
  | 0x11 => some .sym
  | 0x20 => some .freq
  | 0x21 => some .sym
  | 0x22 => some .prx
  | 0x30 => some .time
  | 0x31 => some .freq
  | 0x40 => some .chan
  | 0x41 => some .eq
  | 0x50 => some .sym
  | 0x51 => some .bits
  | 0x52 => some .sym
  | _ => none

/-- Every register and field of 10_state R90 at its reset value, the engine Idle; buffers, and the
model's own fields, as they are. -/
def State.resetRegisters (s : State) : State :=
  { s with
    engine := .idle, cmdLast := 0, status := .reset, irqEn := .reset, errInfo := 0, cfg := .reset,
    active := .reset, results := .reset }

/-- The buffer that a reset of a pending command leaves unspecified (70_reset R341). -/
def State.cancelled (s : State) : Option Buffer :=
  match s.engine with
  | .idle => none
  | .pending w => writtenBuffer (opcField w)

/-- Soft reset (70_reset R341): registers to their reset values, the pending command dropped without a
completion, and its buffer, if it has one, unspecified as a whole. -/
def softReset (s : State) : State :=
  match s.cancelled with
  | none => s.resetRegisters
  | some b => s.resetRegisters.unspecify b

/-- Hardware reset (70_reset R340): every register at its reset value and every buffer byte unspecified,
a new generation. The schedule and the read data, which are the environment's, stay. -/
def hardReset (s : State) : State :=
  { State.reset with
    epochs := .all s.draw, draw := s.draw + 1, sched := s.sched, rdata := s.rdata }

end Sys2Proof.Machine
end

