-- ==== Sys2Proof/Machine/Registers.lean ====
section
/-! DEFINITION. The control and status registers as the host port reads and writes them (10_state R42 to
R62, 20_memory R110). -/

namespace Sys2Proof.Machine

/-- The registers of 10_state R42. -/
inductive Reg where
  /-- 0x000 -/
  | id
  /-- 0x004 -/
  | version
  /-- 0x008 -/
  | ctrl
  /-- 0x00C -/
  | cmd
  /-- 0x010 -/
  | status
  /-- 0x014 -/
  | irqEn
  /-- 0x018 -/
  | errInfo
  /-- 0x020 -/
  | cfg0
  /-- 0x024 -/
  | cfg1
  /-- 0x028 -/
  | epsLo
  /-- 0x02C -/
  | epsHi
  /-- 0x030 -/
  | gridK
  /-- 0x034 -/
  | gridInfo
  /-- 0x040 -/
  | actN
  /-- 0x044 -/
  | actNc
  /-- 0x048 -/
  | actCp
  /-- 0x04C -/
  | actCfg
  /-- 0x050 -/
  | guardLeft
  /-- 0x054 -/
  | guardRight
  /-- 0x058 -/
  | dcIndex
  /-- 0x05C -/
  | dataCount
  /-- 0x060 -/
  | pilotCount
  /-- 0x064 -/
  | timeLen
  /-- 0x070 -/
  | outLen
  /-- 0x074 -/
  | mapData
  /-- 0x078 -/
  | mapPilot
  /-- 0x07C -/
  | mapNull
  /-- 0x080 -/
  | rxPad
  /-- 0x084 -/
  | degenCount
  /-- 0x088 -/
  | snrDbLo
  /-- 0x08C -/
  | snrDbHi
  /-- 0x090 -/
  | snrSigLo
  /-- 0x094 -/
  | snrSigHi
  /-- 0x098 -/
  | snrNoiseLo
  /-- 0x09C -/
  | snrNoiseHi
  deriving DecidableEq, Repr

/-- The offset of a register (10_state R42). -/
def Reg.offset : Reg → Nat
  | .id => 0x000
  | .version => 0x004
  | .ctrl => 0x008
  | .cmd => 0x00C
  | .status => 0x010
  | .irqEn => 0x014
  | .errInfo => 0x018
  | .cfg0 => 0x020
  | .cfg1 => 0x024
  | .epsLo => 0x028
  | .epsHi => 0x02C
  | .gridK => 0x030
  | .gridInfo => 0x034
  | .actN => 0x040
  | .actNc => 0x044
  | .actCp => 0x048
  | .actCfg => 0x04C
  | .guardLeft => 0x050
  | .guardRight => 0x054
  | .dcIndex => 0x058
  | .dataCount => 0x05C
  | .pilotCount => 0x060
  | .timeLen => 0x064
  | .outLen => 0x070
  | .mapData => 0x074
  | .mapPilot => 0x078
  | .mapNull => 0x07C
  | .rxPad => 0x080
  | .degenCount => 0x084
  | .snrDbLo => 0x088
  | .snrDbHi => 0x08C
  | .snrSigLo => 0x090
  | .snrSigHi => 0x094
  | .snrNoiseLo => 0x098
  | .snrNoiseHi => 0x09C

/-- The registers of 10_state R42, all of them. -/
def Reg.list : List Reg :=
  [.id, .version, .ctrl, .cmd, .status, .irqEn, .errInfo, .cfg0, .cfg1, .epsLo, .epsHi, .gridK,
   .gridInfo, .actN, .actNc, .actCp, .actCfg, .guardLeft, .guardRight, .dcIndex, .dataCount,
   .pilotCount, .timeLen, .outLen, .mapData, .mapPilot, .mapNull, .rxPad, .degenCount, .snrDbLo,
   .snrDbHi, .snrSigLo, .snrSigHi, .snrNoiseLo, .snrNoiseHi]

/-- The register at a byte address, if 10_state R42 lists one. -/
def Reg.ofAddr? (a : Nat) : Option Reg := Reg.list.find? fun r => r.offset == a

/-- GRID_INFO: the class and the ordinal of GRID_K under the active configuration (10_state R53; ORD
of a guard is at most 2045, DEDUCED, log 24). -/
def State.gridInfo (s : State) : Word :=
  let k := s.cfg.gridK.toNat
  if s.status.cfgValid && decide (k < s.N) then
    (1 : BitVec 1) ++ (0 : BitVec 4) ++ BitVec.ofNat 11 (s.grid.ordinal k) ++ (0 : BitVec 14) ++
      (s.grid.classify k).toBits
  else 0

/-- What a read of a register returns; reserved bits read 0 (10_state R42 to R61). -/
def State.readReg (s : State) : Reg → Word
  | .id => Config.id
  | .version => Config.version
  | .ctrl => (0 : BitVec 31) ++ BitVec.ofBool s.cfg.scfdmEn
  | .cmd => s.cmdLast
  | .status => s.statusWord
  | .irqEn => s.irqEn.word
  | .errInfo => s.errInfo
  | .cfg0 => (0 : BitVec 23) ++ BitVec.ofBool s.cfg.simple ++ (0 : BitVec 2) ++ s.cfg.mod ++ s.cfg.log2n
  | .cfg1 => (0 : BitVec 4) ++ s.cfg.cp ++ (0 : BitVec 4) ++ s.cfg.nc
  | .epsLo => s.cfg.epsLo
  | .epsHi => s.cfg.epsHi
  | .gridK => s.cfg.gridK.setWidth 32
  | .gridInfo => s.gridInfo
  | .actN => s.active.n.setWidth 32
  | .actNc => s.active.nc.setWidth 32
  | .actCp => s.active.cp.setWidth 32
  | .actCfg =>
    (0 : BitVec 12) ++ s.active.bps ++ (0 : BitVec 7) ++ BitVec.ofBool s.active.simple ++
      (0 : BitVec 2) ++ s.active.mod ++ s.active.log2n
  | .guardLeft => s.active.guardLeft.setWidth 32
  | .guardRight => s.active.guardRight.setWidth 32
  | .dcIndex => s.active.dcIndex.setWidth 32
  | .dataCount => s.active.dataCount.setWidth 32
  | .pilotCount => s.active.pilotCount.setWidth 32
  | .timeLen => s.active.timeLen.setWidth 32
  | .outLen => s.results.outLen.setWidth 32
  | .mapData => s.results.mapData.setWidth 32
  | .mapPilot => s.results.mapPilot.setWidth 32
  | .mapNull => s.results.mapNull.setWidth 32
  | .rxPad => s.results.rxPad.setWidth 32
  | .degenCount => s.results.degenCount.setWidth 32
  | .snrDbLo => s.results.snrDb.extractLsb' 0 32
  | .snrDbHi => s.results.snrDb.extractLsb' 32 32
  | .snrSigLo => s.results.snrSig.extractLsb' 0 32
  | .snrSigHi => s.results.snrSig.extractLsb' 32 32
  | .snrNoiseLo => s.results.snrNoise.extractLsb' 0 32
  | .snrNoiseHi => s.results.snrNoise.extractLsb' 32 32

/-- CTRL from a write with bit 31 = 0 (10_state R44). -/
def HostConfig.writeCtrl (c : HostConfig) (v : Word) : HostConfig := { c with scfdmEn := v.getLsbD 0 }

/-- A CFG0 write; its reserved bits have no effect (10_state R49, R61). -/
def HostConfig.writeCfg0 (c : HostConfig) (v : Word) : HostConfig :=
  { c with log2n := v.extractLsb' 0 4, mod := v.extractLsb' 4 2, simple := v.getLsbD 8 }

/-- A CFG1 write (10_state R50, R61). -/
def HostConfig.writeCfg1 (c : HostConfig) (v : Word) : HostConfig :=
  { c with nc := v.extractLsb' 0 12, cp := v.extractLsb' 16 12 }

/-- A GRID_K write (10_state R52, R61). -/
def HostConfig.writeGridK (c : HostConfig) (v : Word) : HostConfig :=
  { c with gridK := v.extractLsb' 0 12 }

/-- A write of a register that is refused while BUSY = 1 (20_memory R110): HOST_CONFLICT, nothing
written. -/
def State.configWrite (s : State) (f : HostConfig → HostConfig) : State :=
  if s.busy then s.flagConflict else { s with cfg := f s.cfg }

/-- A write of a register (10_state R42 to R52, R62; while BUSY = 1, the table of 20_memory R110). A
write of a read-only register is ignored. -/
def State.writeReg (s : State) (r : Reg) (v : Word) : State :=
  match r with
  | .ctrl => if v.getLsbD 31 then softReset s else s.configWrite fun c => c.writeCtrl v
  | .cmd => if s.busy then s.flagCmdOvr else s.accept v
  | .status => { s with status := s.status.clear v }
  | .irqEn => { s with irqEn := IrqEnable.ofWord v }
  | .cfg0 => s.configWrite fun c => c.writeCfg0 v
  | .cfg1 => s.configWrite fun c => c.writeCfg1 v
  | .epsLo => s.configWrite fun c => { c with epsLo := v }
  | .epsHi => s.configWrite fun c => { c with epsHi := v }
  | .gridK => s.configWrite fun c => c.writeGridK v
  | .id | .version | .errInfo | .gridInfo | .actN | .actNc | .actCp | .actCfg | .guardLeft
  | .guardRight | .dcIndex | .dataCount | .pilotCount | .timeLen | .outLen | .mapData | .mapPilot
  | .mapNull | .rxPad | .degenCount | .snrDbLo | .snrDbHi | .snrSigLo | .snrSigHi | .snrNoiseLo
  | .snrNoiseHi => s

end Sys2Proof.Machine
end

