-- ==== Sys2Proof/Machine/HostPort.lean ====
section
/-! DEFINITION. The host port: the address map and the two transactions (20_memory R100 to R110). -/

namespace Sys2Proof.Machine

/-- What a byte address reaches (20_memory R101, R102, R103). -/
inductive Target where
  /-- a register of 10_state R42 -/
  | reg (r : Reg)
  /-- a word of a buffer -/
  | buffer
  /-- misaligned, unmapped, or an unlisted register offset -/
  | nothing
  deriving DecidableEq, Repr

/-- The address decoder; alignment comes first (20_memory R102, R110). -/
def target (a : Addr) : Target :=
  if a.toNat % 4 ≠ 0 then .nothing
  else match Reg.ofAddr? a.toNat with
    | some r => .reg r
    | none => if (Buffer.ofAddr? a.toNat).isSome then .buffer else .nothing

/-- `MemRead(addr, 4)` (20_memory R100 to R103, R110). The word it returns is left in `rdata`. -/
def hostRead (a : Addr) (s : State) : State :=
  match target a with
  | .reg r => { s with rdata := s.readReg r }
  | .buffer =>
    if s.busy then { s.flagConflict with rdata := 0 } else { s with rdata := s.word32 a.toNat }
  | .nothing => { s.flagBusErr with rdata := 0 }

/-- `MemWrite(addr, 4, v)` (20_memory R100 to R103, R110). -/
def hostWrite (a : Addr) (v : Word) (s : State) : State :=
  match target a with
  | .reg r => s.writeReg r v
  | .buffer => if s.busy then s.flagConflict else s.writeBytes a.toNat (wordBytes v)
  | .nothing => s.flagBusErr

end Sys2Proof.Machine
end

