-- ==== Sys2Proof/Machine/Step.lean ====
section
/-! DEFINITION. One step of the block: the next event of its history (20_memory R120). -/

namespace Sys2Proof.Machine

/-- The engine's step from `Pending(w)`: decode, run the command's rule to completion, complete
(10_state R81). -/
def runPending (w : Word) (s : State) : Host.Outcome State Fault Refusal :=
  match decode w with
  | .ok i => exec i s
  | .error e => .next (s.rejectWord w e)

/-- The engine's turn: an idle engine has nothing to run, and an idle block holds all state
(10_state R80, 60_exceptions R334). -/
def engineTurn (s : State) : Host.Outcome State Fault Refusal :=
  match s.engine with
  | .idle => .next s
  | .pending w => runPending w s

/-- One event of the block's history, after it has left the schedule. -/
def runEvent (e : Event) (s : State) : Host.Outcome State Fault Refusal :=
  match e with
  | .memRead a => .next (hostRead a s)
  | .memWrite a v => .next (hostWrite a v s)
  | .hardReset => .next (hardReset s)
  | .engineTurn => engineTurn s

/-- One step: the next scheduled event, or the engine's turn when nothing is scheduled (20_memory R120,
10_state R81; DESIGN CHOICE, log 1). -/
def step (s : State) : Host.Outcome State Fault Refusal :=
  match s.sched with
  | [] => engineTurn s
  | e :: rest => runEvent e { s with sched := rest }

/-- The state in which the very next step runs the command word `w`: the word is accepted as by a CMD
write (10_state R43), and the engine's turn comes first (DESIGN CHOICE, log 2). -/
def State.withFetchWord (s : State) (nbits w : Nat) : State :=
  { s.accept (BitVec.ofNat 32 (w % 2 ^ nbits)) with sched := .engineTurn :: s.sched }

end Sys2Proof.Machine
end

