-- ==== Sys2Proof/Safety.lean ====
section
/-! DEFINITION. What a good state of the block is, in the terms the statements use: a legal active
configuration (40_config_grid R171, R175), and the invariant that every step keeps. -/

namespace Sys2Proof.Machine

/-- The configuration shadow that an active configuration was latched from (40_config_grid R171). The
fields CONFIG does not latch are at their reset values. -/
def Active.shadow (a : Active) : HostConfig :=
  { HostConfig.reset with
    log2n := a.log2n, mod := a.mod, simple := a.simple, nc := a.nc, cp := a.cp }

/-- An active configuration that a successful CONFIG can have latched (40_config_grid R171, R172). -/
abbrev Active.legal (a : Active) : Prop := a.shadow.check = none ∧ a.shadow.derive = a

/-- The block is configured, and with a legal configuration. CFG_VALID = 1 implies legality in every
reachable state (`State.Inv`); the statements about commands ask for it. -/
abbrev State.configured (s : State) : Prop := s.status.cfgValid = true ∧ s.active.legal

/-- An address of one of the eight buffers (20_memory R101). -/
abbrev inBuffer (a : Nat) : Prop := (Buffer.ofAddr? a).isSome = true

/-- What every reachable state satisfies. -/
structure State.Inv (s : State) : Prop where
  /-- the memory is in its canonical form -/
  memWf : s.mem.wf
  /-- only addresses of buffers hold bytes (20_memory R101) -/
  memInBuffers : ∀ c ∈ s.mem, inBuffer c.1
  /-- CFG_VALID = 1 only under a legal configuration (10_state R45, 40_config_grid R171) -/
  configLegal : s.status.cfgValid = true → s.active.legal
  /-- before CONFIG the active configuration is that of reset (10_state R54, R90) -/
  unconfigured : s.status.cfgValid = false → s.active = Active.reset
  /-- the pending word is the one CMD reads (10_state R43, R82) -/
  pendingIsCmdLast : ∀ w, s.engine = .pending w → s.cmdLast = w
  /-- ERR_INFO is 0 with code OK (10_state R47) -/
  okInfo : s.status.errCode = .ok → s.errInfo = 0

/-- What no command touches: CMD_LAST, IRQ_EN, the host-writable configuration, the flags of host-port
events (10_state R63), and the model's schedule, read data and generations. -/
structure Untouched (s t : State) : Prop where
  /-- CMD_LAST -/
  cmdLast : t.cmdLast = s.cmdLast
  /-- IRQ_EN -/
  irqEn : t.irqEn = s.irqEn
  /-- CTRL, CFG0, CFG1, EPS, GRID_K -/
  cfg : t.cfg = s.cfg
  /-- STATUS.CMD_OVR -/
  cmdOvr : t.status.cmdOvr = s.status.cmdOvr
  /-- STATUS.HOST_CONFLICT -/
  hostConflict : t.status.hostConflict = s.status.hostConflict
  /-- STATUS.BUS_ERR -/
  busErr : t.status.busErr = s.status.busErr
  /-- generations of unspecified contents -/
  epochs : t.epochs = s.epochs
  /-- the schedule -/
  sched : t.sched = s.sched
  /-- the read data -/
  rdata : t.rdata = s.rdata

/-- A command of opcode `op` went from `s` to `t` and completed without error (60_exceptions R310):
OUT_LEN is `len`, ERR_INFO 0, code OK, LAST_OP the opcode, DONE 1, BUSY 0, and the sticky ERR as before. -/
structure Completed (op : BitVec 8) (len : Nat) (s t : State) : Prop extends Untouched s t where
  /-- STATUS.BUSY = 0 -/
  engine : t.engine = .idle
  /-- ERR_INFO -/
  errInfo : t.errInfo = 0
  /-- STATUS.DONE -/
  done : t.status.done = true
  /-- STATUS.ERR -/
  err : t.status.err = s.status.err
  /-- STATUS.ERR_CODE -/
  errCode : t.status.errCode = .ok
  /-- STATUS.LAST_OP -/
  lastOp : t.status.lastOp = op
  /-- OUT_LEN -/
  outLen : t.results.outLen.toNat = len

/-- The configuration in force and the DEGEN flag are as before: every command but CONFIG and EQUALIZE. -/
structure ConfigKept (s t : State) : Prop where
  /-- the active configuration and the derived grid registers -/
  active : t.active = s.active
  /-- STATUS.CFG_VALID -/
  cfgValid : t.status.cfgValid = s.status.cfgValid
  /-- STATUS.DEGEN -/
  degen : t.status.degen = s.status.degen

/-- No result register but OUT_LEN changed (10_state R56 to R60). -/
def OnlyOutLen (s t : State) : Prop := t.results = { s.results with outLen := t.results.outLen }

/-- Every byte of memory outside the `n` bytes from `a` on reads as before. -/
def SameBytesOutside (a n : Nat) (s t : State) : Prop :=
  ∀ x, x < a ∨ a + n ≤ x → t.byte x = s.byte x

/-- The outcome of a command of opcode `op` that raised an error (60_exceptions R311): the completion
fields, and nothing else. -/
def Raises (op : BitVec 8) (code : ErrCode) (info : Nat) (s : State)
    (o : Host.Outcome State Fault Refusal) : Prop :=
  o = .next { s with
    engine := .idle
    errInfo := BitVec.ofNat 32 info
    status := { s.status with done := true, err := true, errCode := code, lastOp := op } }

/-- A stored value and the exact result of the formula: equal, or both a NaN, whose sign and payload are
free (00_scope R26). -/
def Agrees (stored exact : F64) : Prop :=
  if Fp.isNaN exact then Fp.isNaN stored = true else stored = exact

/-- `Agrees` for both components. -/
def CxAgrees (stored exact : Cplx) : Prop :=
  Agrees stored.re exact.re ∧ Agrees stored.im exact.im

end Sys2Proof.Machine
end

