-- ==== Sys2Proof/Certificates/Slice0/Obligations.lean ====
section
/-! DEFINITION. The statements about the block, for the provers. A command's completion and frame are
said through `Completed`, `ConfigKept`, `OnlyOutLen`, `SameBytesOutside` and `Raises` of Sys2Proof/Safety.lean. -/

open Sys2Proof Sys2Proof.Machine

/-! ### Encoding -/

/-- Every well-formed command decodes from its own word, with every operand at every value its field
admits (30_encoding R141 to R143, R146). -/
def Obligations.DecodeOfEncode : Prop :=
  ∀ i : Instr, i.wellFormed = true → decode (encode i) = .ok i

/-- The rejected words, exactly (30_encoding R143): a word is ILLEGAL_OPCODE when its opcode is none of the
fourteen, RESERVED_ARG with its ARG when it is format Z with ARG not 0 or format S with ARG above 1, and
otherwise a well-formed command, whose own word it is: no two words share a command. -/
def Obligations.WordsDecodeOrAreRejected : Prop :=
  ∀ w : Word,
    let opc := (opcField w).toNat
    let arg := (argField w).toNat
    if opc ∉ [0x00, 0x01, 0x10, 0x11, 0x20, 0x21, 0x22, 0x30, 0x31, 0x40, 0x41, 0x50, 0x51, 0x52] then
      decode w = .error (.illegalOpcode (opcField w))
    else if opc ∈ [0x00, 0x01, 0x30, 0x40, 0x41] ∧ arg ≠ 0 then
      decode w = .error (.reservedArg (argField w))
    else if opc ∈ [0x21, 0x22] ∧ 1 < arg then
      decode w = .error (.reservedArg (argField w))
    else ∃ i, decode w = .ok i ∧ encode i = w ∧ i.wellFormed = true

/-- A few words of the spec's encoding examples (30_encoding R146, R148) decode to the commands they stand
for, one of each format. -/
def Obligations.ExampleWordsDecode : Prop :=
  decode 0x00000000 = .ok .nop ∧ decode 0x100000F9 = .ok (.precode 249) ∧
  decode 0x21000001 = .ok (.extractData .eq) ∧ decode 0x30000000 = .ok .ifftCp ∧
  decode 0x31000280 = .ok (.cpFft 640) ∧ decode 0x500001F2 = .ok (.qamMap 498) ∧
  decode 0x30000001 = .error (.reservedArg 1) ∧ decode 0xFF000000 = .error (.illegalOpcode 0xFF)

/-! ### Steps, runs and the invariant -/

/-- The engine's step runs the decoded command: with a pending word that decodes to `i`, a step whose next
event is the engine's turn, or that has nothing scheduled, is `exec i` (10_state R81; the schedule is the
model's, log 1). -/
def Obligations.StepRunsDecodedCommand : Prop :=
  ∀ (s : State) (w : Word) (i : Instr), s.engine = .pending w → decode w = .ok i →
    (s.sched = [] → step s = exec i s) ∧
    ∀ rest, s.sched = .engineTurn :: rest → step s = exec i { s with sched := rest }

/-- A pending word that is no command completes with its error code and changes nothing else
(30_encoding R143, R144, 60_exceptions R313). -/
def Obligations.StepRejectsOtherWords : Prop :=
  ∀ (s : State) (w : Word), s.engine = .pending w → s.sched = [] →
    (∀ opc, decode w = .error (.illegalOpcode opc) →
      Raises (opcField w) .illegalOpcode (opcField w).toNat s (step s)) ∧
    (∀ arg, decode w = .error (.reservedArg arg) →
      Raises (opcField w) .reservedArg (argField w).toNat s (step s))

/-- Every step keeps the invariant. -/
def Obligations.StepKeepsInvariant : Prop :=
  ∀ s t : State, s.Inv → step s = .next t → t.Inv

/-- The state after hardware reset meets the invariant. -/
def Obligations.ResetMeetsInvariant : Prop := State.reset.Inv

/-- Whatever history the environment schedules, after any number of steps from reset the block is in a
state, and the invariant holds there (10_state R81, 93 section 1). -/
def Obligations.InvariantOnEveryHistory : Prop :=
  ∀ (history : List Event) (k : Nat),
    ∃ t : State, Host.Core.run Sys2Proof.core k { State.reset with sched := history } = .next t ∧ t.Inv

/-- Every command, from any state, completes or raises an error in one step: the engine is idle, DONE is 1,
LAST_OP is the opcode, ERR is sticky, and nothing that no command touches has changed (10_state R63,
60_exceptions R310, R311). -/
def Obligations.EveryCommandCompletes : Prop :=
  ∀ (i : Instr) (s : State), ∃ t, exec i s = .next t ∧ Untouched s t ∧ t.engine = .idle ∧
    t.status.done = true ∧ t.status.lastOp = i.opcode ∧
    t.status.err = (s.status.err || decide (t.status.errCode ≠ .ok))

/-- Errors are precise: a pending word, a command or not, that completes with a code other than OK has set
ERR_INFO, ERR_CODE, LAST_OP (the word's bits 31:24), ERR, DONE and BUSY, and nothing else (60_exceptions
R311). -/
def Obligations.ErrorsArePrecise : Prop :=
  ∀ (w : Word) (s t : State), s.engine = .pending w → engineTurn s = .next t →
    t.status.errCode ≠ .ok →
    Raises (opcField w) t.status.errCode t.errInfo.toNat s (engineTurn s)

/-! ### Errors of the commands -/

/-- Before CONFIG every command but NOP and CONFIG completes with NOT_CONFIGURED and ERR_INFO 0
(60_exceptions R312, R313). -/
def Obligations.NotConfiguredBeforeConfig : Prop :=
  ∀ (i : Instr) (s : State), i ≠ .nop → i ≠ .config → s.status.cfgValid = false →
    Raises i.opcode .notConfigured 0 s (exec i s)

/-- CONFIG's checks in their order, with the ERR_INFO of each (40_config_grid R171, 60_exceptions R313). -/
def Obligations.ConfigRejectsIllegalShadow : Prop :=
  ∀ s : State,
    let lg := s.cfg.log2n.toNat
    let nc := s.cfg.nc.toNat
    let cp := s.cfg.cp.toNat
    (s.cfg.mod = 3 → Raises 0x01 .cfgMod 3 s (exec .config s)) ∧
    (s.cfg.mod ≠ 3 → lg < 3 ∨ 11 < lg → Raises 0x01 .cfgLog2n lg s (exec .config s)) ∧
    (s.cfg.mod ≠ 3 → 3 ≤ lg → lg ≤ 11 → nc < 2 ∨ 2 ^ lg < nc →
      Raises 0x01 .cfgNc nc s (exec .config s)) ∧
    (s.cfg.mod ≠ 3 → 3 ≤ lg → lg ≤ 11 → 2 ≤ nc → nc ≤ 2 ^ lg → 2 ^ lg < cp →
      Raises 0x01 .cfgCp cp s (exec .config s))

/-- A count above the buffer it addresses raises CAPACITY with the limit, before any other check of the
count (60_exceptions R312, R313). -/
def Obligations.CapacityChecked : Prop :=
  ∀ (cnt : Nat) (s : State), s.status.cfgValid = true →
    (2048 < cnt →
      Raises 0x10 .capacity 2048 s (exec (.precode cnt) s) ∧
      Raises 0x11 .capacity 2048 s (exec (.decode cnt) s) ∧
      Raises 0x20 .capacity 2048 s (exec (.map cnt) s) ∧
      Raises 0x51 .capacity 2048 s (exec (.qamDemap cnt) s) ∧
      Raises 0x52 .capacity 2048 s (exec (.qamDetect cnt) s)) ∧
    (4096 < cnt → Raises 0x31 .capacity 4096 s (exec (.cpFft cnt) s)) ∧
    (s.bps * 2048 < cnt → Raises 0x50 .capacity (s.bps * 2048) s (exec (.qamMap cnt) s))

/-- A count within the capacity but of the wrong size: SIZE_MISMATCH for PRECODE and DECODE with SC-FDM
enabled and a count other than M, and for MAP with more symbols than slots (M in LTE mode, Nc in SIMPLE
mode); BIT_LEN for QAM_MAP of no whole number of symbols (60_exceptions R312, R313, 46_qam R293). -/
def Obligations.CountOfWrongSizeRaises : Prop :=
  ∀ (cnt : Nat) (s : State), s.status.cfgValid = true →
    (s.cfg.scfdmEn = true → cnt ≤ 2048 → cnt ≠ s.M →
      Raises 0x10 .sizeMismatch s.M s (exec (.precode cnt) s) ∧
      Raises 0x11 .sizeMismatch s.M s (exec (.decode cnt) s)) ∧
    (s.active.simple = false → cnt ≤ 2048 → s.M < cnt →
      Raises 0x20 .sizeMismatch s.M s (exec (.map cnt) s)) ∧
    (s.active.simple = true → cnt ≤ 2048 → s.Nc < cnt →
      Raises 0x20 .sizeMismatch s.Nc s (exec (.map cnt) s)) ∧
    (cnt ≤ s.bps * 2048 → cnt % s.bps ≠ 0 → Raises 0x50 .bitLen cnt s (exec (.qamMap cnt) s))

/-- The pilot commands: EXTRACT_PILOTS and CHEST in SIMPLE mode raise MODE with ERR_INFO 1; CHEST in LTE
mode without pilots raises NO_PILOTS, and with a pilot whose squared magnitude is zero it raises PILOT_ZERO
with the lowest such ordinal (42_mapper R222, 44_chest R260, R261). -/
def Obligations.PilotCommandsChecked : Prop :=
  ∀ s : State, s.status.cfgValid = true →
    (s.active.simple = true →
      (∀ src, Raises 0x22 .mode 1 s (exec (.extractPilots src) s)) ∧
      Raises 0x40 .mode 1 s (exec .chest s)) ∧
    (s.active.simple = false →
      (s.P = 0 → Raises 0x40 .noPilots 0 s (exec .chest s)) ∧
      ∀ j < s.P, Fp.eq (Cx.abs2 (s.elem .pil j)) 0 = true →
        (∀ j' < j, Fp.eq (Cx.abs2 (s.elem .pil j')) 0 = false) →
        Raises 0x40 .pilotZero j s (exec .chest s))

/-! ### Control, configuration and the grid -/

/-- NOP completes with OUT_LEN 0 and does nothing else, configured or not (40_config_grid R170). -/
def Obligations.NopCompletes : Prop :=
  ∀ s : State, ∃ t, exec .nop s = .next t ∧ Completed 0x00 0 s t ∧ ConfigKept s t ∧
    OnlyOutLen s t ∧ t.draw = s.draw ∧ ∀ x, t.byte x = s.byte x

/-- CONFIG with a legal shadow latches it, derives the grid registers, sets CFG_VALID and completes with
OUT_LEN 0; every other result register, DEGEN and every buffer byte stay (40_config_grid R171, R172). -/
def Obligations.ConfigLatchesAndDerives : Prop :=
  ∀ s : State,
    let n := 2 ^ s.cfg.log2n.toNat
    let nc := s.cfg.nc.toNat
    let g : Grid := ⟨n, nc⟩
    s.cfg.mod.toNat ≠ 3 → 3 ≤ s.cfg.log2n.toNat → s.cfg.log2n.toNat ≤ 11 → 2 ≤ nc → nc ≤ n →
    s.cfg.cp.toNat ≤ n →
    ∃ t, exec .config s = .next t ∧ Completed 0x01 0 s t ∧ OnlyOutLen s t ∧ t.draw = s.draw ∧
      (∀ x, t.byte x = s.byte x) ∧ t.status.cfgValid = true ∧ t.status.degen = s.status.degen ∧
      t.N = n ∧ t.Nc = nc ∧ t.CP = s.cfg.cp.toNat ∧ t.active.log2n = s.cfg.log2n ∧
      t.active.mod = s.cfg.mod ∧ t.active.simple = s.cfg.simple ∧
      t.bps = 2 * (s.cfg.mod.toNat + 1) ∧ t.active.guardLeft.toNat = (n - nc) / 2 ∧
      t.active.guardRight.toNat = n - nc - (n - nc) / 2 ∧ t.active.dcIndex.toNat = n / 2 ∧
      t.M = ((List.range n).filter fun k => g.classify k == .data).length ∧
      t.P = ((List.range n).filter fun k => g.classify k == .pilot).length ∧
      t.active.timeLen.toNat = n + s.cfg.cp.toNat

/-- The closed forms of the pilot and data counts (40_config_grid R172). -/
def Obligations.GridClosedForms : Prop :=
  ∀ n nc : Nat, n % 2 = 0 → 2 ≤ nc → nc ≤ n →
    let g : Grid := ⟨n, nc⟩
    g.count .pilot = (nc + 2) / 6 - (if (n / 2 - (n - nc) / 2) % 6 = 3 then 1 else 0) ∧
    g.count .data = nc - 1 - g.count .pilot ∧ 1 ≤ g.count .data

/-- The grid invariants (40_config_grid R175): (a) every index has exactly one class; (b) exactly one index
is dc, N/2; (c) the guards are the N − Nc indices outside the useful band, gl below and gr above it, with
0 ≤ gr − gl ≤ 1; (d) the sizes of the classes add up; (e) the pilots are the indices of the useful band,
minus DC, at the offsets 3, 9, 15, … from gl. Said of every even N, which takes in every legal one. -/
def Obligations.GridInvariants : Prop :=
  ∀ n nc : Nat, n % 2 = 0 → 2 ≤ nc → nc ≤ n →
    let g : Grid := ⟨n, nc⟩
    let gl := (n - nc) / 2
    let gr := n - nc - gl
    (∀ k < n, ∃! c, k ∈ g.indices c) ∧
    g.indices .dc = [n / 2] ∧
    (g.count .guard = n - nc ∧ (∀ k < n, k ∈ g.indices .guard ↔ k < gl ∨ n - gr ≤ k) ∧
      gl ≤ gr ∧ gr ≤ gl + 1) ∧
    (g.count .data + g.count .pilot + 1 + (n - nc) = n ∧
      g.count .data + g.count .pilot = nc - 1) ∧
    ∀ k, k ∈ g.indices .pilot ↔ k < n - gr ∧ k ≠ n / 2 ∧ ∃ q, k = gl + 6 * q + 3

/-- ORD inverts the index lists, which are ascending (40_config_grid R174). -/
def Obligations.OrdinalInvertsIndex : Prop :=
  ∀ (g : Grid) (c : Carrier), (g.indices c).Pairwise (· < ·) ∧
    (∀ i, ∀ h : i < g.count c, g.classify ((g.indices c)[i]'h) = c ∧
      g.ordinal ((g.indices c)[i]'h) = i) ∧
    ∀ k < g.n, g.ordinal k < g.count (g.classify k) ∧
      (g.indices (g.classify k)).getD (g.ordinal k) 0 = k

/-- GRID_INFO answers the grid query: VALID, ORD and TYPE under a legal configuration for k < N, and 0
otherwise (10_state R53). -/
def Obligations.GridInfoAnswersQuery : Prop :=
  ∀ s : State,
    let k := s.cfg.gridK.toNat
    let v := s.readReg .gridInfo
    (s.configured → k < s.N →
      v.getLsbD 31 = true ∧ (v.extractLsb' 16 11).toNat = s.grid.ordinal k ∧
      v.extractLsb' 0 2 = (s.grid.classify k).toBits ∧
      v.extractLsb' 2 14 = 0 ∧ v.extractLsb' 27 4 = 0) ∧
    (s.status.cfgValid = false ∨ s.N ≤ k → v = 0)

/-! ### Precoder -/

/-- PRECODE and DECODE with SC-FDM enabled and L = M replace SYM[0..L) by the transform of its old values,
complete with OUT_LEN L, and store nowhere else (41_precoder R200, R201). -/
def Obligations.PrecoderTransformsInPlace : Prop :=
  ∀ s : State, s.configured → s.cfg.scfdmEn = true →
    (∃ t, exec (.precode s.M) s = .next t ∧ Completed 0x10 s.M s t ∧ ConfigKept s t ∧ OnlyOutLen s t ∧
      t.draw = s.draw ∧ SameBytesOutside Buffer.sym.base (16 * s.M) s t ∧
      t.elems .sym s.M = xform .fwd s.M (s.elems .sym s.M)) ∧
    (∃ t, exec (.decode s.M) s = .next t ∧ Completed 0x11 s.M s t ∧ ConfigKept s t ∧ OnlyOutLen s t ∧
      t.draw = s.draw ∧ SameBytesOutside Buffer.sym.base (16 * s.M) s t ∧
      t.elems .sym s.M = xform .inv s.M (s.elems .sym s.M))

/-- With SC-FDM disabled, PRECODE and DECODE check NOT_CONFIGURED and CAPACITY only, and otherwise they are
the identity for every L ≤ 2048: no byte of memory changes, no buffer matters to what they do, and they
complete with OUT_LEN L (41_precoder R202). -/
def Obligations.DisabledPrecoderIsIdentity : Prop :=
  ∀ (cnt : Nat) (s : State), s.cfg.scfdmEn = false →
    (s.status.cfgValid = false →
      Raises 0x10 .notConfigured 0 s (exec (.precode cnt) s) ∧
      Raises 0x11 .notConfigured 0 s (exec (.decode cnt) s)) ∧
    (s.status.cfgValid = true → 2048 < cnt →
      Raises 0x10 .capacity 2048 s (exec (.precode cnt) s) ∧
      Raises 0x11 .capacity 2048 s (exec (.decode cnt) s)) ∧
    (s.status.cfgValid = true → cnt ≤ 2048 →
      (∃ t, exec (.precode cnt) s = .next t ∧ Completed 0x10 cnt s t ∧ ConfigKept s t ∧
        OnlyOutLen s t ∧ t.draw = s.draw ∧ (∀ x, t.byte x = s.byte x) ∧
        ∀ m e, exec (.precode cnt) { s with mem := m, epochs := e } =
          .next { t with mem := m, epochs := e }) ∧
      (∃ t, exec (.decode cnt) s = .next t ∧ Completed 0x11 cnt s t ∧ ConfigKept s t ∧
        OnlyOutLen s t ∧ t.draw = s.draw ∧ (∀ x, t.byte x = s.byte x) ∧
        ∀ m e, exec (.decode cnt) { s with mem := m, epochs := e } =
          .next { t with mem := m, epochs := e }))

/-- The transform is accurate, for each input of finite components of at most 2^500 in magnitude
(00_scope R23, R27 (a), (c)): the output is within FFT_ERR_REL of the ideal unitary transform wherever any
list of binary64 values is; one is, for every length to 2048, unless every component is below 2^-1029 (the two
lower limits on the input are the model's reading, log 8); and length one is the identity, bit-exact. -/
def Obligations.TransformIsAccurate : Prop :=
  ∀ (dir : Dir) (n : Nat) (x : List Cplx), x.length = n → Ideal.inDomain x = true →
    ((∃ y, y.length = n ∧ Ideal.Accurate dir n x y) → Ideal.Accurate dir n x (xform dir n x)) ∧
    (1 ≤ n → n ≤ 2048 → (∃ z ∈ x, 2 ^ 45 ≤ Fp.mag z.re ∨ 2 ^ 45 ≤ Fp.mag z.im) →
      Ideal.Accurate dir n x (xform dir n x)) ∧
    (n = 1 → xform dir n x = x)

/-! ### Mapper -/

/-- MAP in LTE mode: SYM[i] at data_index(i) for i < D, PIL[j] at pilot_index(j) for j < P, CZERO at every
other index below N; the metadata registers; nothing else stored (42_mapper R220). -/
def Obligations.MapFillsLteGrid : Prop :=
  ∀ (cnt : Nat) (s : State), s.configured → s.active.simple = false → cnt ≤ s.M →
    ∃ t, exec (.map cnt) s = .next t ∧ Completed 0x20 s.N s t ∧ ConfigKept s t ∧ t.draw = s.draw ∧
      SameBytesOutside Buffer.freq.base (16 * s.N) s t ∧
      (∀ i < cnt, t.elem .freq (s.grid.dataIndex i) = s.elem .sym i) ∧
      (∀ j < s.P, t.elem .freq (s.grid.pilotIndex j) = s.elem .pil j) ∧
      (∀ i, cnt ≤ i → i < s.M → t.elem .freq (s.grid.dataIndex i) = czero) ∧
      (∀ k < s.N, s.grid.classify k = .dc ∨ s.grid.classify k = .guard → t.elem .freq k = czero) ∧
      t.results.mapData.toNat = cnt ∧ t.results.mapPilot.toNat = s.P ∧
      t.results.mapNull.toNat = s.N - cnt - s.P ∧
      t.results = { s.results with outLen := t.results.outLen, mapData := t.results.mapData,
                                   mapPilot := t.results.mapPilot, mapNull := t.results.mapNull }

/-- MAP in SIMPLE mode: SYM[0..D) to FREQ[0..D), CZERO to the rest of FREQ[0..N) (42_mapper R220). -/
def Obligations.MapFillsFirstBins : Prop :=
  ∀ (cnt : Nat) (s : State), s.configured → s.active.simple = true → cnt ≤ s.Nc →
    ∃ t, exec (.map cnt) s = .next t ∧ Completed 0x20 s.N s t ∧ ConfigKept s t ∧ t.draw = s.draw ∧
      SameBytesOutside Buffer.freq.base (16 * s.N) s t ∧
      (∀ k < cnt, t.elem .freq k = s.elem .sym k) ∧
      (∀ k, cnt ≤ k → k < s.N → t.elem .freq k = czero) ∧
      t.results.mapData.toNat = cnt ∧ t.results.mapPilot.toNat = 0 ∧
      t.results.mapNull.toNat = s.N - cnt ∧
      t.results = { s.results with outLen := t.results.outLen, mapData := t.results.mapData,
                                   mapPilot := t.results.mapPilot, mapNull := t.results.mapNull }

/-- EXTRACT_DATA: the M data slots in LTE mode, the first Nc bins in SIMPLE mode, bit-exact copies of the
selected spectrum to SYM (42_mapper R221). -/
def Obligations.ExtractDataCopiesSlots : Prop :=
  ∀ (src : Src) (s : State), s.status.cfgValid = true →
    (s.active.simple = false →
      ∃ t, exec (.extractData src) s = .next t ∧ Completed 0x21 s.M s t ∧ ConfigKept s t ∧
        OnlyOutLen s t ∧ t.draw = s.draw ∧ SameBytesOutside Buffer.sym.base (16 * s.M) s t ∧
        ∀ i < s.M, t.elem .sym i = s.elem (srcBuffer src) (s.grid.dataIndex i)) ∧
    (s.active.simple = true →
      ∃ t, exec (.extractData src) s = .next t ∧ Completed 0x21 s.Nc s t ∧ ConfigKept s t ∧
        OnlyOutLen s t ∧ t.draw = s.draw ∧ SameBytesOutside Buffer.sym.base (16 * s.Nc) s t ∧
        ∀ i < s.Nc, t.elem .sym i = s.elem (srcBuffer src) i)

/-- EXTRACT_PILOTS in LTE mode: the P pilots of the selected spectrum to PRX (42_mapper R222). -/
def Obligations.ExtractPilotsCopiesPilots : Prop :=
  ∀ (src : Src) (s : State), s.status.cfgValid = true → s.active.simple = false →
    ∃ t, exec (.extractPilots src) s = .next t ∧ Completed 0x22 s.P s t ∧ ConfigKept s t ∧
      OnlyOutLen s t ∧ t.draw = s.draw ∧ SameBytesOutside Buffer.prx.base (16 * s.P) s t ∧
      ∀ j < s.P, t.elem .prx j = s.elem (srcBuffer src) (s.grid.pilotIndex j)

/-- Interference-free mapping: EXTRACT_DATA and EXTRACT_PILOTS from FREQ right after a MAP of D symbols in
LTE mode give back the D symbols and the P pilots, bit for bit, and zero in the unfilled slots (42_mapper
R220, R221, R222). -/
def Obligations.ExtractAfterMapRestores : Prop :=
  ∀ (cnt : Nat) (s t u v : State), s.configured → s.active.simple = false → cnt ≤ s.M →
    exec (.map cnt) s = .next t → exec (.extractData .freq) t = .next u →
    exec (.extractPilots .freq) u = .next v →
    (∀ i < cnt, v.elem .sym i = s.elem .sym i) ∧
    (∀ i, cnt ≤ i → i < s.M → v.elem .sym i = czero) ∧
    ∀ j < s.P, v.elem .prx j = s.elem .pil j

/-! ### OFDM -/

/-- IFFT_CP: the inverse transform of FREQ[0..N) goes to TIME[CP..CP+N), its last CP samples go before it as
a bit-exact cyclic prefix, and nothing else is stored (43_ofdm R240). -/
def Obligations.IfftCpWritesPrefixedSymbol : Prop :=
  ∀ s : State, s.configured →
    ∃ t, exec .ifftCp s = .next t ∧ Completed 0x30 (s.N + s.CP) s t ∧ ConfigKept s t ∧ OnlyOutLen s t ∧
      t.draw = s.draw ∧ SameBytesOutside Buffer.time.base (16 * (s.N + s.CP)) s t ∧
      (∀ n < s.N, t.elem .time (s.CP + n) = (xform .inv s.N (s.elems .freq s.N)).getD n czero) ∧
      ∀ i < s.CP, t.elem .time i = t.elem .time (s.N + i)

/-- CP_FFT of L > 0 samples: FREQ[0..N) is the forward transform of the N samples after the prefix, those
not received being CZERO; RX_PAD is the missing count; TIME is not written (43_ofdm R241). -/
def Obligations.CpFftTransformsReceived : Prop :=
  ∀ (cnt : Nat) (s : State), s.configured → 0 < cnt → cnt ≤ 4096 →
    ∃ t, exec (.cpFft cnt) s = .next t ∧ Completed 0x31 s.N s t ∧ ConfigKept s t ∧ t.draw = s.draw ∧
      SameBytesOutside Buffer.freq.base (16 * s.N) s t ∧
      t.elems .freq s.N = xform .fwd s.N ((List.range s.N).map fun n =>
        if s.CP + n < cnt then s.elem .time (s.CP + n) else czero) ∧
      t.results.rxPad.toNat = (if cnt < s.N + s.CP then s.N + s.CP - cnt else 0) ∧
      t.results = { s.results with outLen := t.results.outLen, rxPad := t.results.rxPad }

/-- CP_FFT of no samples: an empty output, not an error (43_ofdm R241). -/
def Obligations.CpFftOfNothingIsEmpty : Prop :=
  ∀ s : State, s.status.cfgValid = true →
    ∃ t, exec (.cpFft 0) s = .next t ∧ Completed 0x31 0 s t ∧ ConfigKept s t ∧ t.draw = s.draw ∧
      (∀ x, t.byte x = s.byte x) ∧ t.results.rxPad = 0 ∧
      t.results = { s.results with outLen := t.results.outLen, rxPad := t.results.rxPad }

/-- CP_FFT does not look at the cyclic prefix, at samples past the received count, or at samples past
N + CP: two states that agree on the other samples of TIME get the same FREQ[0..N) (43_ofdm R241, 00_scope
R25: XFORM depends on nothing but its input). Where the agreed samples hold an infinity or a NaN, R26 and 93 U3
say any value, and that the two outputs are then equal too is the model's reading of R25 (DEDUCED, log 9). -/
def Obligations.CpFftIgnoresPrefixAndPadding : Prop :=
  ∀ (cnt : Nat) (s s' t t' : State), s.status.cfgValid = true → s'.status.cfgValid = true →
    s'.active = s.active → 0 < cnt → cnt ≤ 4096 →
    (∀ i, s.CP ≤ i → i < cnt → i < s.CP + s.N → s'.elem .time i = s.elem .time i) →
    exec (.cpFft cnt) s = .next t → exec (.cpFft cnt) s' = .next t' →
    t'.elems .freq s.N = t.elems .freq s.N ∧ t'.results.rxPad = t.results.rxPad

/-- Every transform of an all-zero input is all zero, the signs of the zeros free (00_scope R27 (b)): IFFT_CP
of a zero spectrum, CP_FFT when every sample it transforms that was received is zero (so also when none was
received past the prefix), and PRECODE and DECODE of zero symbols with SC-FDM enabled (41_precoder R200,
R201, 43_ofdm R240, R241). -/
def Obligations.ZeroInZeroOut : Prop :=
  ∀ s : State, s.configured →
    ((∀ k < s.N, Cx.isZero (s.elem .freq k) = true) →
      ∃ t, exec .ifftCp s = .next t ∧ ∀ i < s.N + s.CP, Cx.isZero (t.elem .time i) = true) ∧
    (∀ cnt, 0 < cnt → cnt ≤ 4096 →
      (∀ i, s.CP ≤ i → i < cnt → i < s.CP + s.N → Cx.isZero (s.elem .time i) = true) →
      ∃ t, exec (.cpFft cnt) s = .next t ∧ ∀ k < s.N, Cx.isZero (t.elem .freq k) = true) ∧
    (∀ cnt, 0 < cnt → cnt ≤ s.CP →
      ∃ t, exec (.cpFft cnt) s = .next t ∧ ∀ k < s.N, Cx.isZero (t.elem .freq k) = true) ∧
    (s.cfg.scfdmEn = true → (∀ i < s.M, Cx.isZero (s.elem .sym i) = true) →
      (∃ t, exec (.precode s.M) s = .next t ∧ ∀ i < s.M, Cx.isZero (t.elem .sym i) = true) ∧
      ∃ t, exec (.decode s.M) s = .next t ∧ ∀ i < s.M, Cx.isZero (t.elem .sym i) = true)

/-! ### Channel estimator -/

/-- CHEST in LTE mode with at least one pilot, none of them zero: the estimate at a pilot is the
least-squares quotient; below the first and above the last pilot it is flat; between two neighbouring
pilots it is the linear interpolation of their estimates, component by component; a NaN's sign and payload
are free (44_chest R260, R261, R262). -/
def Obligations.ChestEstimatesChannel : Prop :=
  ∀ s : State, s.configured → s.active.simple = false → 0 < s.P →
    (∀ j < s.P, Fp.eq (Cx.abs2 (s.elem .pil j)) 0 = false) →
    ∃ t, exec .chest s = .next t ∧ Completed 0x40 s.N s t ∧ ConfigKept s t ∧
      SameBytesOutside Buffer.chan.base (16 * s.N) s t ∧
      (∀ j < s.P, CxAgrees (t.elem .chan (s.grid.pilotIndex j))
        (Cx.div (s.elem .freq (s.grid.pilotIndex j)) (s.elem .pil j))) ∧
      (∀ k ≤ s.grid.pilotIndex 0, t.elem .chan k = t.elem .chan (s.grid.pilotIndex 0)) ∧
      (∀ k < s.N, s.grid.pilotIndex (s.P - 1) ≤ k →
        t.elem .chan k = t.elem .chan (s.grid.pilotIndex (s.P - 1))) ∧
      ∀ j k, j + 1 < s.P → s.grid.pilotIndex j < k → k < s.grid.pilotIndex (j + 1) →
        let a := t.elem .chan (s.grid.pilotIndex j)
        let b := t.elem .chan (s.grid.pilotIndex (j + 1))
        let dx := Fp.ofNat (s.grid.pilotIndex (j + 1) - s.grid.pilotIndex j)
        let x := Fp.ofNat (k - s.grid.pilotIndex j)
        CxAgrees (t.elem .chan k)
          ⟨Fp.add (Fp.mul (Fp.div (Fp.sub b.re a.re) dx) x) a.re,
           Fp.add (Fp.mul (Fp.div (Fp.sub b.im a.im) dx) x) a.im⟩

/-- The SNR registers after a successful CHEST: the means of |Y|² and |Y − X|² over the pilots, summed in
rising order, and ten times the logarithm of their ratio; no other result register but OUT_LEN changes
(44_chest R264). The logarithm is +∞ of +∞, −∞ of either zero, NaN of a NaN, +0.0 of 1, and of any other
positive argument within one unit in the last place of the exact one (00_scope R28). -/
def Obligations.ChestMeasuresSnr : Prop :=
  (∀ s : State, s.configured → s.active.simple = false → 0 < s.P →
    (∀ j < s.P, Fp.eq (Cx.abs2 (s.elem .pil j)) 0 = false) →
    let y := fun j => s.elem .freq (s.grid.pilotIndex j)
    let ss := (List.range s.P).foldl (fun acc j => Fp.add acc (Cx.abs2 (y j))) 0
    let ns := (List.range s.P).foldl
      (fun acc j => Fp.add acc (Cx.abs2 (Cx.sub (y j) (s.elem .pil j)))) 0
    let sig := Fp.div ss (Fp.ofNat s.P)
    let noise := Fp.div ns (Fp.ofNat s.P)
    ∃ t, exec .chest s = .next t ∧ Agrees t.results.snrSig sig ∧ Agrees t.results.snrNoise noise ∧
      Agrees t.results.snrDb (Fp.mul (Fp.ofNat 10) (log10 (Fp.div sig noise))) ∧
      t.results = { s.results with outLen := t.results.outLen, snrDb := t.results.snrDb,
                                   snrSig := t.results.snrSig, snrNoise := t.results.snrNoise }) ∧
  log10 Fp.posInf = Fp.posInf ∧ log10 0 = Fp.negInf ∧ log10 Fp.signBit = Fp.negInf ∧
  (∀ q, Fp.isNaN q = true → Fp.isNaN (log10 q) = true) ∧ log10 Fp.one = 0 ∧
  ∀ q, Fp.isFinite q = true → Fp.lt 0 q = true → q ≠ Fp.one → Ideal.Log10Within q (log10 q)

/-! ### Equalizer -/

/-- EQUALIZE: for every k < N the quotient of FREQ[k] by CHAN[k] + ε, or CZERO where the squared magnitude
of the denominator is zero; those indices are counted, and DEGEN is set if there is one and never cleared;
nothing else is stored (45_equalizer R280). -/
def Obligations.EqualizeDivides : Prop :=
  ∀ s : State, s.configured →
    let b := fun k => (⟨Fp.add (s.elem .chan k).re s.eps, (s.elem .chan k).im⟩ : Cplx)
    let zero := fun k => Fp.eq (Cx.abs2 (b k)) 0
    let cnt := ((List.range s.N).filter zero).length
    ∃ t, exec .equalize s = .next t ∧ Completed 0x41 s.N s t ∧
      SameBytesOutside Buffer.eq.base (16 * s.N) s t ∧
      (∀ k < s.N, zero k = true → t.elem .eq k = czero) ∧
      (∀ k < s.N, zero k = false → CxAgrees (t.elem .eq k) (Cx.div (s.elem .freq k) (b k))) ∧
      t.results.degenCount.toNat = cnt ∧ t.status.degen = (s.status.degen || decide (0 < cnt)) ∧
      t.active = s.active ∧ t.status.cfgValid = s.status.cfgValid ∧
      t.results = { s.results with outLen := t.results.outLen, degenCount := t.results.degenCount }

/-! ### QAM -/

/-- QAM_MAP of a whole number of symbols: SYM[k] is the point of bits k·bps to k·bps + bps − 1, and nothing
else is stored (46_qam R290, R291, R293). -/
def Obligations.QamMapWritesPoints : Prop :=
  ∀ (cnt : Nat) (s : State), s.configured → cnt ≤ s.bps * 2048 → cnt % s.bps = 0 →
    ∃ t, exec (.qamMap cnt) s = .next t ∧ Completed 0x50 (cnt / s.bps) s t ∧ ConfigKept s t ∧
      OnlyOutLen s t ∧ t.draw = s.draw ∧ SameBytesOutside Buffer.sym.base (16 * (cnt / s.bps)) s t ∧
      ∀ k < cnt / s.bps, t.elem .sym k = s.modulation.point fun i => s.bit (k * s.bps + i)

/-- QAM_DEMAP: bits [0, S·bps) are the decided groups of SYM[0..S), every other bit of BITS and every byte
outside the bytes those bits lie in is as before (46_qam R292, R294). -/
def Obligations.QamDemapWritesBits : Prop :=
  ∀ (cnt : Nat) (s : State), s.configured → cnt ≤ 2048 →
    ∃ t, exec (.qamDemap cnt) s = .next t ∧ Completed 0x51 (cnt * s.bps) s t ∧ ConfigKept s t ∧
      OnlyOutLen s t ∧ t.draw = s.draw ∧
      SameBytesOutside Buffer.bits.base ((cnt * s.bps + 7) / 8) s t ∧
      (∀ i < cnt * s.bps,
        t.bit i = (s.modulation.decideGroup (s.elem .sym (i / s.bps))).getD (i % s.bps) false) ∧
      ∀ i, cnt * s.bps ≤ i → t.bit i = s.bit i

/-- QAM_DETECT: each of SYM[0..S) becomes the point of its decided group, and nothing else is stored
(46_qam R295). -/
def Obligations.QamDetectWritesNearest : Prop :=
  ∀ (cnt : Nat) (s : State), s.status.cfgValid = true → cnt ≤ 2048 →
    ∃ t, exec (.qamDetect cnt) s = .next t ∧ Completed 0x52 cnt s t ∧ ConfigKept s t ∧ OnlyOutLen s t ∧
      t.draw = s.draw ∧ SameBytesOutside Buffer.sym.base (16 * cnt) s t ∧
      ∀ k < cnt, t.elem .sym k =
        s.modulation.point fun i => (s.modulation.decideGroup (s.elem .sym k)).getD i false

/-- Every bit group survives mapping and deciding: `decide(point(b)) = b` (46_qam R294). -/
def Obligations.DecideOfPoint : Prop :=
  ∀ (m : Modulation) (b : List Bool), b.length = 2 * m.axisBits →
    m.decideGroup (m.point fun t => b.getD t false) = b

/-- QAM_MAP of L bits and then QAM_DEMAP of the L / bps symbols leaves every bit of BITS as it was
(46_qam R294). -/
def Obligations.DemapAfterMapRestoresBits : Prop :=
  ∀ (cnt : Nat) (s t u : State), s.configured → cnt ≤ s.bps * 2048 → cnt % s.bps = 0 →
    exec (.qamMap cnt) s = .next t → exec (.qamDemap (cnt / s.bps)) t = .next u →
    ∀ i, u.bit i = s.bit i

/-- The hard decision on each coordinate (46_qam R292): of a finite value, the decided level is at least as
near, on the exact real line, as any other level of the constellation, and of a zero, which lies between two
levels, it is +1; of an infinity it is the outermost level of its sign; of a NaN it is +1. -/
def Obligations.DecisionIsNearest : Prop :=
  ∀ (m : Modulation) (x : F64),
    let d := m.decideAxis x
    let decided := m.level d.1 d.2.1 d.2.2
    let outermost : ℤ := match m with | .qpsk => 1 | .qam16 => 3 | .qam64 => 7
    let v : ℝ := (Fp.units x : ℝ) / 2 ^ 1074
    (Fp.isFinite x = true → ∀ p q r : Bool,
      |v - (decided : ℝ) / Real.sqrt m.K| ≤ |v - (m.level p q r : ℝ) / Real.sqrt m.K|) ∧
    (Fp.isZero x = true → decided = 1) ∧
    (Fp.isInf x = true → decided = if Fp.sign x then -outermost else outermost) ∧
    (Fp.isNaN x = true → decided = 1)

/-- Every coordinate of the constellation is the binary64 nearest to its level over √K: no finite binary64
is nearer (46_qam R291). -/
def Obligations.CoordinatesAreNearest : Prop :=
  ∀ (m : Modulation) (x y z : Bool) (d : F64), Fp.isFinite d = true →
    let l := m.level x y z
    |(Fp.units (m.coord l) : ℝ) / 2 ^ 1074 - (l : ℝ) / Real.sqrt m.K| ≤
      |(Fp.units d : ℝ) / 2 ^ 1074 - (l : ℝ) / Real.sqrt m.K|

/-! ### Arithmetic -/

/-- roundTiesToEven: a rounded finite result is a binary64 nearest to the exact value `± num / den` (in units
of 2^-1074), and when another finite binary64 is exactly as near, the result's significand is even; the
result is infinite from half a last place above the largest finite value on (00_scope R18). -/
def Obligations.RoundingIsToNearestEven : Prop :=
  ∀ (neg : Bool) (num den : Nat), 0 < den →
    let r := Fp.round neg num den
    let v : ℤ := if neg then -(num : ℤ) else num
    (Fp.isFinite r = true ↔ 2 * num < (2 ^ 54 - 1) * 2 ^ 2045 * den) ∧
    (Fp.isFinite r = true → ∀ y, Fp.isFinite y = true →
      |Fp.units r * den - v| ≤ |Fp.units y * den - v| ∧
      (|Fp.units r * den - v| = |Fp.units y * den - v| → Fp.units y ≠ Fp.units r →
        Fp.frac r % 2 = 0))

/-! ### Host port, flags and resets -/

/-- A word-aligned access to an unmapped address or to an unlisted register offset reads 0, writes nothing,
and sets BUS_ERR (20_memory R103). -/
def Obligations.UnmappedAccessSetsBusErr : Prop :=
  ∀ (a : Addr) (v : Word) (s : State), a.toNat % 4 = 0 →
    (a.toNat ∈ [0x01C, 0x038, 0x03C, 0x068, 0x06C] ∨ (0x0A0 ≤ a.toNat ∧ a.toNat < 0x02000) ∨
      (0x02600 ≤ a.toNat ∧ a.toNat < 0x04000) ∨ (0x28000 ≤ a.toNat ∧ a.toNat < 0x30000)) →
    hostWrite a v s = { s with status := { s.status with busErr := true } } ∧
    hostRead a s = { s with status := { s.status with busErr := true }, rdata := 0 }

/-- A misaligned access reads 0, writes nothing, and sets BUS_ERR, whatever it addresses and whether or not
a command is pending (20_memory R102). -/
def Obligations.MisalignedAccessSetsBusErr : Prop :=
  ∀ (a : Addr) (v : Word) (s : State), a.toNat % 4 ≠ 0 →
    hostWrite a v s = { s with status := { s.status with busErr := true } } ∧
    hostRead a s = { s with status := { s.status with busErr := true }, rdata := 0 }

/-- While idle, a word of a buffer reads back as written, and every byte outside it stays; a read of a word
changes nothing but the read data, the model's own field (log 3) (20_memory R101, R104, R109, R124). -/
def Obligations.BufferWordReadsBack : Prop :=
  ∀ (a : Addr) (v : Word) (s : State), s.engine = .idle → a.toNat % 4 = 0 → inBuffer a.toNat →
    (hostRead a (hostWrite a v s)).rdata = v ∧
    hostWrite a v s = { s with mem := (hostWrite a v s).mem } ∧
    SameBytesOutside a.toNat 4 s (hostWrite a v s) ∧
    hostRead a s = { s with rdata := (hostRead a s).rdata }

/-- The host sees complex element `i` of a buffer as four words: re low, re high, im low, im high
(20_memory R105, R106). -/
def Obligations.ElementIsFourWords : Prop :=
  ∀ (b : Buffer) (i : Nat) (s : State), b ≠ .bits → 16 * i + 16 ≤ b.size → s.engine = .idle →
    let word := fun o => (hostRead (BitVec.ofNat 18 (b.base + 16 * i + o)) s).rdata
    s.elem b i = ⟨word 4 ++ word 0, word 12 ++ word 8⟩

/-- The host sees stream bit `i` as bit i mod 32 of the word at 0x02000 + 4·(i div 32) (20_memory R107). -/
def Obligations.StreamBitInWord : Prop :=
  ∀ (i : Nat) (s : State), i < 12288 → s.engine = .idle →
    s.bit i = (hostRead (BitVec.ofNat 18 (0x02000 + 4 * (i / 32))) s).rdata.getLsbD (i % 32)

/-- A CMD write while idle accepts the word, any word; while a command is pending it is dropped and sets
CMD_OVR, and nothing else changes; a read gives the last accepted word, 0 after reset; an accepted word that
is no command completes with an error at the engine's next turn (10_state R43). -/
def Obligations.CmdWriteAcceptsOrDrops : Prop :=
  ∀ (w v : Word) (s : State),
    (s.engine = .idle → hostWrite 0x0000C w s = { s with engine := .pending w, cmdLast := w }) ∧
    (s.engine = .pending v →
      hostWrite 0x0000C w s = { s with status := { s.status with cmdOvr := true } }) ∧
    hostRead 0x0000C s = { s with rdata := s.cmdLast } ∧ State.reset.cmdLast = 0 ∧
    (s.engine = .idle → (∀ i, decode w ≠ .ok i) →
      ∃ t, engineTurn (hostWrite 0x0000C w s) = .next t ∧ t.engine = .idle ∧
        t.status.done = true ∧ t.status.err = true ∧ t.status.errCode ≠ .ok)

/-- Aligned accesses while a command is pending, row by row (20_memory R110): registers read normally; STATUS,
IRQ_EN and the soft reset work; a CMD write is dropped with CMD_OVR; a write of a read-only register is
ignored; other configuration writes and all buffer accesses are refused with HOST_CONFLICT, a refused read
giving 0. -/
def Obligations.PendingAccessTable : Prop :=
  ∀ (w v : Word) (a : Addr) (s : State), s.engine = .pending w → a.toNat % 4 = 0 →
    (∀ r : Reg, a.toNat = r.offset → hostRead a s = { s with rdata := s.readReg r }) ∧
    (a = 0x00010 → hostWrite a v s = { s with status := s.status.clear v }) ∧
    (a = 0x00014 → hostWrite a v s = { s with irqEn := IrqEnable.ofWord v }) ∧
    (a = 0x00008 → v.getLsbD 31 = true → hostWrite a v s = softReset s) ∧
    (a = 0x0000C → hostWrite a v s = { s with status := { s.status with cmdOvr := true } }) ∧
    (a.toNat ∈ [0x000, 0x004, 0x018, 0x034] ∨ (0x040 ≤ a.toNat ∧ a.toNat ≤ 0x064) ∨
      (0x070 ≤ a.toNat ∧ a.toNat ≤ 0x09C) → hostWrite a v s = s) ∧
    (a.toNat ∈ [0x020, 0x024, 0x028, 0x02C, 0x030] ∨ (a = 0x00008 ∧ v.getLsbD 31 = false) →
      hostWrite a v s = { s with status := { s.status with hostConflict := true } }) ∧
    (inBuffer a.toNat →
      hostRead a s = { s with status := { s.status with hostConflict := true }, rdata := 0 } ∧
      hostWrite a v s = { s with status := { s.status with hostConflict := true } })

/-- No host access changes a value that a pending command will read: but for a reset, every host transaction
leaves the engine, CFG_VALID, the configuration, the active values and all of memory as they are (20_memory
R110). -/
def Obligations.PendingOperandsFrozen : Prop :=
  ∀ (w : Word) (s : State), s.engine = .pending w →
    (∀ a, let t := hostRead a s
      t.engine = s.engine ∧ t.status.cfgValid = s.status.cfgValid ∧ t.cfg = s.cfg ∧
      t.active = s.active ∧ t.mem = s.mem ∧ t.epochs = s.epochs) ∧
    ∀ (a : Addr) (v : Word), ¬(a = 0x00008 ∧ v.getLsbD 31 = true) →
      let t := hostWrite a v s
      t.engine = s.engine ∧ t.status.cfgValid = s.status.cfgValid ∧ t.cfg = s.cfg ∧
      t.active = s.active ∧ t.mem = s.mem ∧ t.epochs = s.epochs

/-- A STATUS write clears exactly the W1C bits written as 1: bits 1, 2, 4, 5, 6 and 7, and no other bit of
STATUS and no other register changes, pending or not (10_state R45). -/
def Obligations.StatusWriteClearsW1C : Prop :=
  ∀ (v : Word) (s : State),
    (hostWrite 0x00010 v s).readReg .status = s.readReg .status &&& ~~~(v &&& 0x000000F6) ∧
    hostWrite 0x00010 v s = { s with status := (hostWrite 0x00010 v s).status }

/-- Registers while idle. A write of CFG0, CFG1, EPS_LO, EPS_HI, GRID_K, IRQ_EN or CTRL (with bit 31 = 0)
changes the fields of that register and nothing else of the state, and the register reads back what its
writable bits were given, reserved bits as 0; a write of a read-only register is ignored; a read of any
register gives its value to the host and changes nothing else (10_state R44, R46, R49 to R52, R61, R62,
20_memory R109, R110; that the read data stay in the state is the model's choice, log 3). -/
def Obligations.RegistersReadBack : Prop :=
  ∀ (v : Word) (s : State), s.engine = .idle →
    (hostWrite 0x00020 v s = { s with cfg := { s.cfg with
        log2n := v.extractLsb' 0 4, mod := v.extractLsb' 4 2, simple := v.getLsbD 8 } } ∧
      (hostWrite 0x00020 v s).readReg .cfg0 = v &&& 0x0000013F) ∧
    (hostWrite 0x00024 v s = { s with cfg := { s.cfg with
        nc := v.extractLsb' 0 12, cp := v.extractLsb' 16 12 } } ∧
      (hostWrite 0x00024 v s).readReg .cfg1 = v &&& 0x0FFF0FFF) ∧
    (hostWrite 0x00028 v s = { s with cfg := { s.cfg with epsLo := v } } ∧
      (hostWrite 0x00028 v s).readReg .epsLo = v) ∧
    (hostWrite 0x0002C v s = { s with cfg := { s.cfg with epsHi := v } } ∧
      (hostWrite 0x0002C v s).readReg .epsHi = v) ∧
    (hostWrite 0x00030 v s = { s with cfg := { s.cfg with gridK := v.extractLsb' 0 12 } } ∧
      (hostWrite 0x00030 v s).readReg .gridK = v &&& 0x00000FFF) ∧
    (hostWrite 0x00014 v s = { s with irqEn := (hostWrite 0x00014 v s).irqEn } ∧
      (hostWrite 0x00014 v s).readReg .irqEn = v &&& 0x0000000F) ∧
    (v.getLsbD 31 = false →
      hostWrite 0x00008 v s = { s with cfg := { s.cfg with scfdmEn := v.getLsbD 0 } } ∧
      (hostWrite 0x00008 v s).readReg .ctrl = v &&& 0x00000001) ∧
    (∀ a : Addr, a.toNat % 4 = 0 →
      (a.toNat ∈ [0x000, 0x004, 0x018, 0x034] ∨ (0x040 ≤ a.toNat ∧ a.toNat ≤ 0x064) ∨
        (0x070 ≤ a.toNat ∧ a.toNat ≤ 0x09C)) → hostWrite a v s = s) ∧
    ∀ (r : Reg) (a : Addr), a.toNat = r.offset → hostRead a s = { s with rdata := s.readReg r }

/-- The interrupt output is the stated function of STATUS and IRQ_EN as the host reads them, and it is low
after reset (60_exceptions R320). -/
def Obligations.IrqIsLevelOfFlags : Prop :=
  (∀ s : State,
    let st := s.readReg .status
    let en := s.readReg .irqEn
    s.irq = ((st.getLsbD 1 && en.getLsbD 0) || (st.getLsbD 2 && en.getLsbD 1) ||
      ((st.getLsbD 4 || st.getLsbD 5 || st.getLsbD 6) && en.getLsbD 2) ||
      (st.getLsbD 7 && en.getLsbD 3))) ∧
  State.reset.irq = false ∧ ∀ s : State, (hardReset s).irq = false

/-- A soft reset puts every register at its reset value and the engine in Idle, drops the pending command
without a completion, and leaves every buffer byte as it is, but for the one buffer that the pending
command may write (70_reset R341). -/
def Obligations.SoftResetKeepsOtherBuffers : Prop :=
  ∀ (v : Word) (s : State), v.getLsbD 31 = true →
    let t := hostWrite 0x00008 v s
    (∀ r, t.readReg r = State.reset.readReg r) ∧ t.engine = .idle ∧
    (s.engine = .idle → ∀ x, t.byte x = s.byte x) ∧
    ∀ w, s.engine = .pending w →
      ∀ x, (∀ b, writtenBuffer (opcField w) = some b → b.holds x = false) → t.byte x = s.byte x

/-- What a hardware reset leaves: every register reads its value of 10_state R90, the engine is Idle, and
no buffer byte holds a written value (70_reset R340). -/
def Obligations.HardResetValues : Prop :=
  ∀ s : State,
    let t := hardReset s
    t.engine = .idle ∧ (∀ x, t.mem.lookup x = none) ∧
    t.readReg .id = 0x4F46444D ∧ t.readReg .version = 0x00010000 ∧
    t.readReg .epsLo = 0xA0B5ED8D ∧ t.readReg .epsHi = 0x3EB0C6F7 ∧
    ∀ r, r ≠ .id → r ≠ .version → r ≠ .epsLo → r ≠ .epsHi → t.readReg r = 0

/-! ### What the commands do not depend on -/

/-- No command reads a STATUS flag but CFG_VALID: two states that differ only in the other fields of STATUS,
in IRQ_EN and in ERR_INFO get the same memory, result registers, active configuration, CFG_VALID, error code
and ERR_INFO from every command (10_state R63). That the two runs also get the same values where the spec leaves
them open is the model's: unwritten bytes, stored NaNs and transforms of non-finite inputs (DEDUCED, logs 4, 7
and 9). -/
def Obligations.CommandsIgnoreFlags : Prop :=
  ∀ (i : Instr) (s t t' : State) (st : Status) (ie : IrqEnable) (info : Word),
    st.cfgValid = s.status.cfgValid → exec i s = .next t →
    exec i { s with status := st, irqEn := ie, errInfo := info } = .next t' →
    t'.mem = t.mem ∧ t'.results = t.results ∧ t'.active = t.active ∧
      t'.status.cfgValid = t.status.cfgValid ∧ t'.status.errCode = t.status.errCode ∧
      t'.errInfo = t.errInfo

/-- Writing CFG0 or CFG1 alone changes no behaviour: every command but CONFIG does the same under any
shadow, and only the shadow itself differs after it (10_state R49, R50, 42_mapper R223, 46_qam R296). That the two
runs also get the same values where the spec leaves them open is the model's: unwritten bytes, stored NaNs and
transforms of non-finite inputs (DEDUCED, logs 4, 7 and 9). -/
def Obligations.ShadowDoesNotMatter : Prop :=
  ∀ (i : Instr) (s t : State) (c0 c1 : Word), i ≠ .config → exec i s = .next t →
    exec i { s with cfg := (s.cfg.writeCfg0 c0).writeCfg1 c1 } =
      .next { t with cfg := (s.cfg.writeCfg0 c0).writeCfg1 c1 }
end

