-- ==== Sys2Proof/Laws/Configured.lean ====
section
/-! SUPPORT. What a legal active configuration is worth: the ranges of the active values, and the counts
behind DATA_COUNT and PILOT_COUNT (40_config_grid R171, R172). -/

namespace Sys2Proof.Machine

/-- A class has at most as many subcarriers as the grid. -/
theorem count_le (g : Grid) (c : Carrier) : g.count c ≤ g.n :=
  (List.length_filter_le _ _).trans (by simp)

/-- A shadow that passes CONFIG's checks (40_config_grid R171). -/
theorem check_passed {c : HostConfig} (h : c.check = none) :
    c.mod.toNat < 3 ∧ 3 ≤ c.log2n.toNat ∧ c.log2n.toNat ≤ 11 ∧ 2 ≤ c.nc.toNat ∧
      c.nc.toNat ≤ 2 ^ c.log2n.toNat ∧ c.cp.toNat ≤ 2 ^ c.log2n.toNat := by
  unfold HostConfig.check Config.log2nMin Config.log2nMax Config.ncMin at h
  simp only [] at h
  split_ifs at h with hm h1 h2 h3
  have hm3 : c.mod.toNat ≠ 3 := fun h3 => hm (BitVec.eq_of_toNat_eq (by simpa using h3))
  have hlt := c.mod.isLt
  rw [not_or, not_lt, not_lt] at h1 h2
  exact ⟨by omega, h1.1, h1.2, h2.1, h2.2, not_lt.1 h3⟩

/-- The shadow behind a legal configuration passed CONFIG's checks (40_config_grid R171). -/
theorem legal_checks {a : Active} (h : a.legal) :
    a.mod.toNat < 3 ∧ 3 ≤ a.log2n.toNat ∧ a.log2n.toNat ≤ 11 ∧ 2 ≤ a.nc.toNat ∧
      a.nc.toNat ≤ 2 ^ a.log2n.toNat ∧ a.cp.toNat ≤ 2 ^ a.log2n.toNat :=
  check_passed h.1

/-- ACT_N of a legal configuration. -/
theorem legal_n {a : Active} (h : a.legal) : a.n.toNat = 2 ^ a.log2n.toNat := by
  have hle : 2 ^ a.log2n.toNat ≤ 2 ^ 11 := Nat.pow_le_pow_right (by omega) (legal_checks h).2.2.1
  have hn := congrArg (fun x => x.n.toNat) h.2
  simp only [HostConfig.derive, Active.shadow, BitVec.toNat_ofNat] at hn
  rw [← hn, Nat.mod_eq_of_lt (by omega)]

/-- The ranges of the active values of a legal configuration (00_scope R10). -/
theorem legal_ranges {a : Active} (h : a.legal) :
    8 ≤ a.n.toNat ∧ a.n.toNat ≤ 2048 ∧ a.n.toNat % 2 = 0 ∧ 2 ≤ a.nc.toNat ∧
      a.nc.toNat ≤ a.n.toNat ∧ a.cp.toNat ≤ a.n.toNat := by
  obtain ⟨-, h1, h2, h3, h4, h5⟩ := legal_checks h
  rw [legal_n h]
  have hle : 2 ^ a.log2n.toNat ≤ 2 ^ 11 := Nat.pow_le_pow_right (by omega) h2
  have hge : 2 ^ 3 ≤ 2 ^ a.log2n.toNat := Nat.pow_le_pow_right (by omega) h1
  refine ⟨by omega, by omega, ?_, h3, h4, h5⟩
  obtain ⟨e, he⟩ := Nat.exists_eq_add_of_le h1
  rw [he, pow_add]
  omega

/-- BPS of a legal configuration (40_config_grid R172). -/
theorem legal_bps {a : Active} (h : a.legal) : a.bps.toNat = 2 * (a.mod.toNat + 1) := by
  have hm := (legal_checks h).1
  have hb := congrArg (fun x => x.bps.toNat) h.2
  simp only [HostConfig.derive, Active.shadow, BitVec.toNat_ofNat, bitsPerSymbol] at hb
  omega

/-- DATA_COUNT and PILOT_COUNT of a legal configuration count the grid (40_config_grid R172). -/
theorem legal_counts {a : Active} (h : a.legal) :
    a.dataCount.toNat = (⟨a.n.toNat, a.nc.toNat⟩ : Grid).count .data ∧
      a.pilotCount.toNat = (⟨a.n.toNat, a.nc.toNat⟩ : Grid).count .pilot := by
  have hn := legal_n h
  have hr := legal_ranges h
  have hd := congrArg (fun x => x.dataCount.toNat) h.2
  have hp := congrArg (fun x => x.pilotCount.toNat) h.2
  simp only [HostConfig.derive, Active.shadow, BitVec.toNat_ofNat, ← hn] at hd hp
  have h1 := count_le ⟨a.n.toNat, a.nc.toNat⟩ .data
  have h2 := count_le ⟨a.n.toNat, a.nc.toNat⟩ .pilot
  simp only at h1 h2
  rw [Nat.mod_eq_of_lt (by omega)] at hd hp
  exact ⟨hd.symm, hp.symm⟩

end Sys2Proof.Machine
end

