-- ==== Sys2Proof/Laws/HostPort.lean ====
section
/-! SUPPORT. What the address decoder of the host port answers, said once for each kind of address
(20_memory R101, R102, R103). -/

namespace Sys2Proof.Machine

/-- A misaligned address reaches nothing (20_memory R102). -/
theorem target_of_misaligned {a : Addr} (h : a.toNat % 4 ≠ 0) : target a = .nothing := by
  simp [target, h]

/-- The offset of a register is looked up as that register (10_state R42). -/
theorem regOfAddr_offset (r : Reg) : Reg.ofAddr? r.offset = some r := by cases r <;> decide

/-- The address of a register reaches it (10_state R42). -/
theorem target_of_reg {a : Addr} {r : Reg} (h : a.toNat = r.offset) : target a = .reg r := by
  have h4 : r.offset % 4 = 0 := by cases r <;> decide
  simp [target, h, h4, regOfAddr_offset]

/-- No register lies at or above the end of the register window. -/
theorem regOfAddr_none {a : Nat} (h : 0x0A0 ≤ a) : Reg.ofAddr? a = none := by
  simp only [Reg.ofAddr?, List.find?_eq_none]
  intro r _
  have : r.offset < 0x0A0 := by cases r <;> decide
  simp
  omega

/-- An address of a buffer lies between the first buffer and the end of the address space. -/
theorem inBuffer_bounds {a : Nat} (h : inBuffer a) : 0x02000 ≤ a ∧ a < 0x40000 := by
  obtain ⟨b, -, hb⟩ := List.find?_isSome.1 h
  simp only [Buffer.holds, Bool.and_eq_true, decide_eq_true_eq] at hb
  revert hb
  cases b <;> simp [Buffer.base, Buffer.size, Config.bitsCap, Config.pilCap, Config.symCap,
    Config.freqCap, Config.timeCap] <;> omega

/-- An aligned address of a buffer reaches the buffer (20_memory R101). -/
theorem target_of_buffer {a : Addr} (h : a.toNat % 4 = 0) (hb : inBuffer a.toNat) :
    target a = .buffer := by
  have h0 := (inBuffer_bounds hb).1
  have h1 : (Buffer.ofAddr? a.toNat).isSome = true := hb
  simp [target, h, regOfAddr_none (show 0x0A0 ≤ a.toNat by omega), h1]

/-- An address that reaches a buffer is an aligned address of one (20_memory R101). -/
theorem buffer_of_target {a : Addr} (h : target a = .buffer) : a.toNat % 4 = 0 ∧ inBuffer a.toNat := by
  unfold target at h
  by_cases h4 : a.toNat % 4 = 0
  · refine ⟨h4, ?_⟩
    by_cases hb : (Buffer.ofAddr? a.toNat).isSome = true
    · exact hb
    · cases hr : Reg.ofAddr? a.toNat <;> simp_all
  · simp [h4] at h

/-- An address inside a buffer's range is one of its addresses (20_memory R101). -/
theorem inBuffer_of_range (b : Buffer) {a : Nat} (h1 : b.base ≤ a) (h2 : a < b.base + b.size) :
    inBuffer a :=
  List.find?_isSome.2 ⟨b, by cases b <;> simp [Buffer.list], by simp [Buffer.holds, h1, h2]⟩

end Sys2Proof.Machine
end

