-- ==== Sys2Proof/Laws/Memory.lean ====
section
/-! SUPPORT. The laws of the byte memory: what a lookup finds after a write or an erasure, and that every
memory operation keeps the canonical form. -/

namespace Sys2Proof.Machine

theorem lookup_append (m m' : Memory) (a : Nat) :
    Memory.lookup (m ++ m') a = (Memory.lookup m a).or (Memory.lookup m' a) := by
  induction m with
  | nil => simp [Memory.lookup]
  | cons c m ih =>
    obtain ⟨k, v⟩ := c
    simp only [List.cons_append, Memory.lookup]
    split <;> simp [ih]

/-- Filtering by a property of the address keeps or forgets all of an address. -/
theorem lookup_filter (m : Memory) (p : Nat → Bool) (a : Nat) :
    Memory.lookup (m.filter fun c => p c.1) a = if p a then Memory.lookup m a else none := by
  induction m with
  | nil => simp [Memory.lookup]
  | cons c m ih =>
    obtain ⟨k, v⟩ := c
    by_cases hk : k = a
    · subst hk
      by_cases hp : p k <;> simp [hp, Memory.lookup, ih]
    · by_cases hp : p k <;> simp [hp, Memory.lookup, ih, hk]

theorem lookup_cells (a : Nat) (bs : List Byte) (x : Nat) :
    Memory.lookup (Memory.cells a bs) x = if a ≤ x then bs[x - a]? else none := by
  induction bs generalizing a with
  | nil => simp [Memory.cells, Memory.lookup]
  | cons b bs ih =>
    simp only [Memory.cells, Memory.lookup, ih]
    by_cases h : a = x
    · subst h; simp
    · by_cases h' : a ≤ x
      · have : x - a = (x - (a + 1)) + 1 := by omega
        have h1 : a + 1 ≤ x := by omega
        rw [if_neg h, if_pos h1, if_pos h', this]
        simp
      · have h1 : ¬ a + 1 ≤ x := by omega
        rw [if_neg h, if_neg h1, if_neg h']

/-- Everything a block write does: the run of addresses holds the bytes, every other address holds what
it held. -/
theorem lookup_writeBlock (m : Memory) (a : Nat) (bs : List Byte) (x : Nat) :
    Memory.lookup (m.writeBlock a bs) x =
      if a ≤ x ∧ x < a + bs.length then bs[x - a]? else Memory.lookup m x := by
  rw [Memory.writeBlock, lookup_append, lookup_append, lookup_cells,
    lookup_filter m (fun k => decide (k < a)), lookup_filter m (fun k => decide (a + bs.length ≤ k))]
  by_cases h1 : x < a
  · have : ¬ a ≤ x := by omega
    have h2 : ¬ (a + bs.length ≤ x) := by omega
    simp [h1, this, h2]
  · by_cases h2 : x < a + bs.length
    · have h3 : a ≤ x := by omega
      have h4 : x - a < bs.length := by omega
      simp [h1, h2, h3, List.getElem?_eq_getElem h4]
    · have h3 : a ≤ x := by omega
      have h4 : a + bs.length ≤ x := by omega
      have h5 : bs.length ≤ x - a := by omega
      simp [h1, h2, h3, h4, List.getElem?_eq_none h5]

/-- Everything an erasure does. -/
theorem lookup_eraseBlock (m : Memory) (a n x : Nat) :
    Memory.lookup (m.eraseBlock a n) x =
      if a ≤ x ∧ x < a + n then none else Memory.lookup m x := by
  rw [Memory.eraseBlock, lookup_filter m (fun k => decide (k < a) || decide (a + n ≤ k))]
  by_cases h1 : x < a
  · have : ¬ a ≤ x := by omega
    simp [h1, this]
  · by_cases h2 : x < a + n
    · have h3 : a ≤ x := by omega
      have h4 : ¬ a + n ≤ x := by omega
      simp [h1, h2, h3, h4]
    · have h3 : a ≤ x := by omega
      have h4 : a + n ≤ x := by omega
      simp [h1, h2, h4]

theorem mem_cells {c : Host.Cell} {a : Nat} {bs : List Byte} (h : c ∈ Memory.cells a bs) :
    a ≤ c.1 ∧ c.1 < a + bs.length := by
  induction bs generalizing a with
  | nil => simp [Memory.cells] at h
  | cons b bs ih =>
    simp only [Memory.cells, List.mem_cons] at h
    rcases h with rfl | h
    · simp
    · have := ih h
      simp only [List.length_cons]
      omega

theorem cells_wf (a : Nat) (bs : List Byte) : (Memory.cells a bs).wf := by
  induction bs generalizing a with
  | nil => simp [Memory.cells]
  | cons b bs ih =>
    simp only [Memory.cells, List.pairwise_cons]
    exact ⟨fun c hc => (mem_cells hc).1, ih (a + 1)⟩

/-- A block write keeps the canonical form. -/
theorem writeBlock_wf {m : Memory} (h : m.wf) (a : Nat) (bs : List Byte) :
    (m.writeBlock a bs).wf := by
  unfold Memory.writeBlock
  rw [Memory.wf, List.pairwise_append, List.pairwise_append]
  refine ⟨⟨h.filter _, cells_wf a bs, ?_⟩, h.filter _, ?_⟩
  · intro c hc d hd
    have h1 := (List.mem_filter.1 hc).2
    have h2 := mem_cells hd
    simp at h1
    omega
  · intro c hc d hd
    have h2 := (List.mem_filter.1 hd).2
    simp at h2
    rcases List.mem_append.1 hc with hc | hc
    · have h1 := (List.mem_filter.1 hc).2
      simp at h1
      omega
    · have h1 := mem_cells hc
      omega

/-- An erasure keeps the canonical form. -/
theorem eraseBlock_wf {m : Memory} (h : m.wf) (a n : Nat) : (m.eraseBlock a n).wf :=
  h.filter _

/-- A block write lists only addresses of the run and addresses listed before. -/
theorem mem_writeBlock {m : Memory} {a : Nat} {bs : List Byte} {c : Host.Cell}
    (h : c ∈ m.writeBlock a bs) : c ∈ m ∨ (a ≤ c.1 ∧ c.1 < a + bs.length) := by
  unfold Memory.writeBlock at h
  simp only [List.mem_append, List.mem_filter] at h
  rcases h with (⟨h, -⟩ | h) | ⟨h, -⟩
  · exact .inl h
  · exact .inr (mem_cells h)
  · exact .inl h

/-- An erasure lists nothing new. -/
theorem mem_eraseBlock {m : Memory} {a n : Nat} {c : Host.Cell} (h : c ∈ m.eraseBlock a n) :
    c ∈ m := (List.mem_filter.1 h).1

end Sys2Proof.Machine
end

