-- ==== Sys2Proof/Laws/State.lean ====
section
/-! SUPPORT. One lemma per field of State and per state update, each true by definition and a simp lemma,
so that no proof unfolds a record update. -/

namespace Sys2Proof.Machine

@[simp] theorem complete_engine (s : State) (op : BitVec 8) (n : Nat) :
    (s.complete op n).engine = .idle := rfl
@[simp] theorem complete_cmdLast (s : State) (op : BitVec 8) (n : Nat) :
    (s.complete op n).cmdLast = s.cmdLast := rfl
@[simp] theorem complete_status (s : State) (op : BitVec 8) (n : Nat) :
    (s.complete op n).status = { s.status with done := true, errCode := .ok, lastOp := op } := rfl
@[simp] theorem complete_irqEn (s : State) (op : BitVec 8) (n : Nat) :
    (s.complete op n).irqEn = s.irqEn := rfl
@[simp] theorem complete_errInfo (s : State) (op : BitVec 8) (n : Nat) :
    (s.complete op n).errInfo = 0 := rfl
@[simp] theorem complete_cfg (s : State) (op : BitVec 8) (n : Nat) :
    (s.complete op n).cfg = s.cfg := rfl
@[simp] theorem complete_active (s : State) (op : BitVec 8) (n : Nat) :
    (s.complete op n).active = s.active := rfl
@[simp] theorem complete_results (s : State) (op : BitVec 8) (n : Nat) :
    (s.complete op n).results = { s.results with outLen := BitVec.ofNat 24 n } := rfl
@[simp] theorem complete_mem (s : State) (op : BitVec 8) (n : Nat) :
    (s.complete op n).mem = s.mem := rfl
@[simp] theorem complete_epochs (s : State) (op : BitVec 8) (n : Nat) :
    (s.complete op n).epochs = s.epochs := rfl
@[simp] theorem complete_draw (s : State) (op : BitVec 8) (n : Nat) :
    (s.complete op n).draw = s.draw := rfl
@[simp] theorem complete_sched (s : State) (op : BitVec 8) (n : Nat) :
    (s.complete op n).sched = s.sched := rfl
@[simp] theorem complete_rdata (s : State) (op : BitVec 8) (n : Nat) :
    (s.complete op n).rdata = s.rdata := rfl

@[simp] theorem raiseError_engine (s : State) (op : BitVec 8) (c : ErrCode) (n : Nat) :
    (s.raiseError op c n).engine = .idle := rfl
@[simp] theorem raiseError_cmdLast (s : State) (op : BitVec 8) (c : ErrCode) (n : Nat) :
    (s.raiseError op c n).cmdLast = s.cmdLast := rfl
@[simp] theorem raiseError_status (s : State) (op : BitVec 8) (c : ErrCode) (n : Nat) :
    (s.raiseError op c n).status = { s.status with done := true, err := true, errCode := c, lastOp := op } := rfl
@[simp] theorem raiseError_irqEn (s : State) (op : BitVec 8) (c : ErrCode) (n : Nat) :
    (s.raiseError op c n).irqEn = s.irqEn := rfl
@[simp] theorem raiseError_errInfo (s : State) (op : BitVec 8) (c : ErrCode) (n : Nat) :
    (s.raiseError op c n).errInfo = BitVec.ofNat 32 n := rfl
@[simp] theorem raiseError_cfg (s : State) (op : BitVec 8) (c : ErrCode) (n : Nat) :
    (s.raiseError op c n).cfg = s.cfg := rfl
@[simp] theorem raiseError_active (s : State) (op : BitVec 8) (c : ErrCode) (n : Nat) :
    (s.raiseError op c n).active = s.active := rfl
@[simp] theorem raiseError_results (s : State) (op : BitVec 8) (c : ErrCode) (n : Nat) :
    (s.raiseError op c n).results = s.results := rfl
@[simp] theorem raiseError_mem (s : State) (op : BitVec 8) (c : ErrCode) (n : Nat) :
    (s.raiseError op c n).mem = s.mem := rfl
@[simp] theorem raiseError_epochs (s : State) (op : BitVec 8) (c : ErrCode) (n : Nat) :
    (s.raiseError op c n).epochs = s.epochs := rfl
@[simp] theorem raiseError_draw (s : State) (op : BitVec 8) (c : ErrCode) (n : Nat) :
    (s.raiseError op c n).draw = s.draw := rfl
@[simp] theorem raiseError_sched (s : State) (op : BitVec 8) (c : ErrCode) (n : Nat) :
    (s.raiseError op c n).sched = s.sched := rfl
@[simp] theorem raiseError_rdata (s : State) (op : BitVec 8) (c : ErrCode) (n : Nat) :
    (s.raiseError op c n).rdata = s.rdata := rfl

@[simp] theorem writeBytes_engine (s : State) (a : Nat) (bs : List Byte) :
    (s.writeBytes a bs).engine = s.engine := rfl
@[simp] theorem writeBytes_cmdLast (s : State) (a : Nat) (bs : List Byte) :
    (s.writeBytes a bs).cmdLast = s.cmdLast := rfl
@[simp] theorem writeBytes_status (s : State) (a : Nat) (bs : List Byte) :
    (s.writeBytes a bs).status = s.status := rfl
@[simp] theorem writeBytes_irqEn (s : State) (a : Nat) (bs : List Byte) :
    (s.writeBytes a bs).irqEn = s.irqEn := rfl
@[simp] theorem writeBytes_errInfo (s : State) (a : Nat) (bs : List Byte) :
    (s.writeBytes a bs).errInfo = s.errInfo := rfl
@[simp] theorem writeBytes_cfg (s : State) (a : Nat) (bs : List Byte) :
    (s.writeBytes a bs).cfg = s.cfg := rfl
@[simp] theorem writeBytes_active (s : State) (a : Nat) (bs : List Byte) :
    (s.writeBytes a bs).active = s.active := rfl
@[simp] theorem writeBytes_results (s : State) (a : Nat) (bs : List Byte) :
    (s.writeBytes a bs).results = s.results := rfl
@[simp] theorem writeBytes_mem (s : State) (a : Nat) (bs : List Byte) :
    (s.writeBytes a bs).mem = s.mem.writeBlock a bs := rfl
@[simp] theorem writeBytes_epochs (s : State) (a : Nat) (bs : List Byte) :
    (s.writeBytes a bs).epochs = s.epochs := rfl
@[simp] theorem writeBytes_draw (s : State) (a : Nat) (bs : List Byte) :
    (s.writeBytes a bs).draw = s.draw := rfl
@[simp] theorem writeBytes_sched (s : State) (a : Nat) (bs : List Byte) :
    (s.writeBytes a bs).sched = s.sched := rfl
@[simp] theorem writeBytes_rdata (s : State) (a : Nat) (bs : List Byte) :
    (s.writeBytes a bs).rdata = s.rdata := rfl

@[simp] theorem writeElems_engine (s : State) (b : Buffer) (zs : List Cplx) :
    (s.writeElems b zs).engine = s.engine := rfl
@[simp] theorem writeElems_cmdLast (s : State) (b : Buffer) (zs : List Cplx) :
    (s.writeElems b zs).cmdLast = s.cmdLast := rfl
@[simp] theorem writeElems_status (s : State) (b : Buffer) (zs : List Cplx) :
    (s.writeElems b zs).status = s.status := rfl
@[simp] theorem writeElems_irqEn (s : State) (b : Buffer) (zs : List Cplx) :
    (s.writeElems b zs).irqEn = s.irqEn := rfl
@[simp] theorem writeElems_errInfo (s : State) (b : Buffer) (zs : List Cplx) :
    (s.writeElems b zs).errInfo = s.errInfo := rfl
@[simp] theorem writeElems_cfg (s : State) (b : Buffer) (zs : List Cplx) :
    (s.writeElems b zs).cfg = s.cfg := rfl
@[simp] theorem writeElems_active (s : State) (b : Buffer) (zs : List Cplx) :
    (s.writeElems b zs).active = s.active := rfl
@[simp] theorem writeElems_results (s : State) (b : Buffer) (zs : List Cplx) :
    (s.writeElems b zs).results = s.results := rfl
@[simp] theorem writeElems_mem (s : State) (b : Buffer) (zs : List Cplx) :
    (s.writeElems b zs).mem = s.mem.writeBlock b.base (zs.flatMap cplxBytes) := rfl
@[simp] theorem writeElems_epochs (s : State) (b : Buffer) (zs : List Cplx) :
    (s.writeElems b zs).epochs = s.epochs := rfl
@[simp] theorem writeElems_draw (s : State) (b : Buffer) (zs : List Cplx) :
    (s.writeElems b zs).draw = s.draw := rfl
@[simp] theorem writeElems_sched (s : State) (b : Buffer) (zs : List Cplx) :
    (s.writeElems b zs).sched = s.sched := rfl
@[simp] theorem writeElems_rdata (s : State) (b : Buffer) (zs : List Cplx) :
    (s.writeElems b zs).rdata = s.rdata := rfl

@[simp] theorem writeBits_engine (s : State) (bs : List Bool) :
    (s.writeBits bs).engine = s.engine := rfl
@[simp] theorem writeBits_cmdLast (s : State) (bs : List Bool) :
    (s.writeBits bs).cmdLast = s.cmdLast := rfl
@[simp] theorem writeBits_status (s : State) (bs : List Bool) :
    (s.writeBits bs).status = s.status := rfl
@[simp] theorem writeBits_irqEn (s : State) (bs : List Bool) :
    (s.writeBits bs).irqEn = s.irqEn := rfl
@[simp] theorem writeBits_errInfo (s : State) (bs : List Bool) :
    (s.writeBits bs).errInfo = s.errInfo := rfl
@[simp] theorem writeBits_cfg (s : State) (bs : List Bool) : (s.writeBits bs).cfg = s.cfg := rfl
@[simp] theorem writeBits_active (s : State) (bs : List Bool) :
    (s.writeBits bs).active = s.active := rfl
@[simp] theorem writeBits_results (s : State) (bs : List Bool) :
    (s.writeBits bs).results = s.results := rfl
@[simp] theorem writeBits_epochs (s : State) (bs : List Bool) :
    (s.writeBits bs).epochs = s.epochs := rfl
@[simp] theorem writeBits_draw (s : State) (bs : List Bool) : (s.writeBits bs).draw = s.draw := rfl
@[simp] theorem writeBits_sched (s : State) (bs : List Bool) :
    (s.writeBits bs).sched = s.sched := rfl
@[simp] theorem writeBits_rdata (s : State) (bs : List Bool) :
    (s.writeBits bs).rdata = s.rdata := rfl

@[simp] theorem unspecify_engine (s : State) (b : Buffer) : (s.unspecify b).engine = s.engine := rfl
@[simp] theorem unspecify_cmdLast (s : State) (b : Buffer) :
    (s.unspecify b).cmdLast = s.cmdLast := rfl
@[simp] theorem unspecify_status (s : State) (b : Buffer) : (s.unspecify b).status = s.status := rfl
@[simp] theorem unspecify_irqEn (s : State) (b : Buffer) : (s.unspecify b).irqEn = s.irqEn := rfl
@[simp] theorem unspecify_errInfo (s : State) (b : Buffer) :
    (s.unspecify b).errInfo = s.errInfo := rfl
@[simp] theorem unspecify_cfg (s : State) (b : Buffer) : (s.unspecify b).cfg = s.cfg := rfl
@[simp] theorem unspecify_active (s : State) (b : Buffer) : (s.unspecify b).active = s.active := rfl
@[simp] theorem unspecify_results (s : State) (b : Buffer) :
    (s.unspecify b).results = s.results := rfl
@[simp] theorem unspecify_mem (s : State) (b : Buffer) :
    (s.unspecify b).mem = s.mem.eraseBlock b.base b.size := rfl
@[simp] theorem unspecify_epochs (s : State) (b : Buffer) :
    (s.unspecify b).epochs = s.epochs.set b s.draw := rfl
@[simp] theorem unspecify_draw (s : State) (b : Buffer) : (s.unspecify b).draw = s.draw + 1 := rfl
@[simp] theorem unspecify_sched (s : State) (b : Buffer) : (s.unspecify b).sched = s.sched := rfl
@[simp] theorem unspecify_rdata (s : State) (b : Buffer) : (s.unspecify b).rdata = s.rdata := rfl

@[simp] theorem accept_engine (s : State) (w : Word) : (s.accept w).engine = .pending w := rfl
@[simp] theorem accept_cmdLast (s : State) (w : Word) : (s.accept w).cmdLast = w := rfl
@[simp] theorem accept_status (s : State) (w : Word) : (s.accept w).status = s.status := rfl
@[simp] theorem accept_irqEn (s : State) (w : Word) : (s.accept w).irqEn = s.irqEn := rfl
@[simp] theorem accept_errInfo (s : State) (w : Word) : (s.accept w).errInfo = s.errInfo := rfl
@[simp] theorem accept_cfg (s : State) (w : Word) : (s.accept w).cfg = s.cfg := rfl
@[simp] theorem accept_active (s : State) (w : Word) : (s.accept w).active = s.active := rfl
@[simp] theorem accept_results (s : State) (w : Word) : (s.accept w).results = s.results := rfl
@[simp] theorem accept_mem (s : State) (w : Word) : (s.accept w).mem = s.mem := rfl
@[simp] theorem accept_epochs (s : State) (w : Word) : (s.accept w).epochs = s.epochs := rfl
@[simp] theorem accept_draw (s : State) (w : Word) : (s.accept w).draw = s.draw := rfl
@[simp] theorem accept_sched (s : State) (w : Word) : (s.accept w).sched = s.sched := rfl
@[simp] theorem accept_rdata (s : State) (w : Word) : (s.accept w).rdata = s.rdata := rfl

@[simp] theorem resetRegisters_engine (s : State) : s.resetRegisters.engine = .idle := rfl
@[simp] theorem resetRegisters_cmdLast (s : State) : s.resetRegisters.cmdLast = 0 := rfl
@[simp] theorem resetRegisters_status (s : State) : s.resetRegisters.status = .reset := rfl
@[simp] theorem resetRegisters_irqEn (s : State) : s.resetRegisters.irqEn = .reset := rfl
@[simp] theorem resetRegisters_errInfo (s : State) : s.resetRegisters.errInfo = 0 := rfl
@[simp] theorem resetRegisters_cfg (s : State) : s.resetRegisters.cfg = .reset := rfl
@[simp] theorem resetRegisters_active (s : State) : s.resetRegisters.active = .reset := rfl
@[simp] theorem resetRegisters_results (s : State) : s.resetRegisters.results = .reset := rfl
@[simp] theorem resetRegisters_mem (s : State) : s.resetRegisters.mem = s.mem := rfl
@[simp] theorem resetRegisters_epochs (s : State) : s.resetRegisters.epochs = s.epochs := rfl
@[simp] theorem resetRegisters_draw (s : State) : s.resetRegisters.draw = s.draw := rfl
@[simp] theorem resetRegisters_sched (s : State) : s.resetRegisters.sched = s.sched := rfl
@[simp] theorem resetRegisters_rdata (s : State) : s.resetRegisters.rdata = s.rdata := rfl

@[simp] theorem flagBusErr_engine (s : State) : s.flagBusErr.engine = s.engine := rfl
@[simp] theorem flagBusErr_cmdLast (s : State) : s.flagBusErr.cmdLast = s.cmdLast := rfl
@[simp] theorem flagBusErr_status (s : State) :
    s.flagBusErr.status = { s.status with busErr := true } := rfl
@[simp] theorem flagBusErr_irqEn (s : State) : s.flagBusErr.irqEn = s.irqEn := rfl
@[simp] theorem flagBusErr_errInfo (s : State) : s.flagBusErr.errInfo = s.errInfo := rfl
@[simp] theorem flagBusErr_cfg (s : State) : s.flagBusErr.cfg = s.cfg := rfl
@[simp] theorem flagBusErr_active (s : State) : s.flagBusErr.active = s.active := rfl
@[simp] theorem flagBusErr_results (s : State) : s.flagBusErr.results = s.results := rfl
@[simp] theorem flagBusErr_mem (s : State) : s.flagBusErr.mem = s.mem := rfl
@[simp] theorem flagBusErr_epochs (s : State) : s.flagBusErr.epochs = s.epochs := rfl
@[simp] theorem flagBusErr_draw (s : State) : s.flagBusErr.draw = s.draw := rfl
@[simp] theorem flagBusErr_sched (s : State) : s.flagBusErr.sched = s.sched := rfl
@[simp] theorem flagBusErr_rdata (s : State) : s.flagBusErr.rdata = s.rdata := rfl

@[simp] theorem flagConflict_engine (s : State) : s.flagConflict.engine = s.engine := rfl
@[simp] theorem flagConflict_cmdLast (s : State) : s.flagConflict.cmdLast = s.cmdLast := rfl
@[simp] theorem flagConflict_status (s : State) :
    s.flagConflict.status = { s.status with hostConflict := true } := rfl
@[simp] theorem flagConflict_irqEn (s : State) : s.flagConflict.irqEn = s.irqEn := rfl
@[simp] theorem flagConflict_errInfo (s : State) : s.flagConflict.errInfo = s.errInfo := rfl
@[simp] theorem flagConflict_cfg (s : State) : s.flagConflict.cfg = s.cfg := rfl
@[simp] theorem flagConflict_active (s : State) : s.flagConflict.active = s.active := rfl
@[simp] theorem flagConflict_results (s : State) : s.flagConflict.results = s.results := rfl
@[simp] theorem flagConflict_mem (s : State) : s.flagConflict.mem = s.mem := rfl
@[simp] theorem flagConflict_epochs (s : State) : s.flagConflict.epochs = s.epochs := rfl
@[simp] theorem flagConflict_draw (s : State) : s.flagConflict.draw = s.draw := rfl
@[simp] theorem flagConflict_sched (s : State) : s.flagConflict.sched = s.sched := rfl
@[simp] theorem flagConflict_rdata (s : State) : s.flagConflict.rdata = s.rdata := rfl

@[simp] theorem flagCmdOvr_engine (s : State) : s.flagCmdOvr.engine = s.engine := rfl
@[simp] theorem flagCmdOvr_cmdLast (s : State) : s.flagCmdOvr.cmdLast = s.cmdLast := rfl
@[simp] theorem flagCmdOvr_status (s : State) :
    s.flagCmdOvr.status = { s.status with cmdOvr := true } := rfl
@[simp] theorem flagCmdOvr_irqEn (s : State) : s.flagCmdOvr.irqEn = s.irqEn := rfl
@[simp] theorem flagCmdOvr_errInfo (s : State) : s.flagCmdOvr.errInfo = s.errInfo := rfl
@[simp] theorem flagCmdOvr_cfg (s : State) : s.flagCmdOvr.cfg = s.cfg := rfl
@[simp] theorem flagCmdOvr_active (s : State) : s.flagCmdOvr.active = s.active := rfl
@[simp] theorem flagCmdOvr_results (s : State) : s.flagCmdOvr.results = s.results := rfl
@[simp] theorem flagCmdOvr_mem (s : State) : s.flagCmdOvr.mem = s.mem := rfl
@[simp] theorem flagCmdOvr_epochs (s : State) : s.flagCmdOvr.epochs = s.epochs := rfl
@[simp] theorem flagCmdOvr_draw (s : State) : s.flagCmdOvr.draw = s.draw := rfl
@[simp] theorem flagCmdOvr_sched (s : State) : s.flagCmdOvr.sched = s.sched := rfl
@[simp] theorem flagCmdOvr_rdata (s : State) : s.flagCmdOvr.rdata = s.rdata := rfl

@[simp] theorem flagDegen_engine (s : State) (d : Bool) : (s.flagDegen d).engine = s.engine := rfl
@[simp] theorem flagDegen_cmdLast (s : State) (d : Bool) :
    (s.flagDegen d).cmdLast = s.cmdLast := rfl
@[simp] theorem flagDegen_status (s : State) (d : Bool) :
    (s.flagDegen d).status = { s.status with degen := s.status.degen || d } := rfl
@[simp] theorem flagDegen_irqEn (s : State) (d : Bool) : (s.flagDegen d).irqEn = s.irqEn := rfl
@[simp] theorem flagDegen_errInfo (s : State) (d : Bool) :
    (s.flagDegen d).errInfo = s.errInfo := rfl
@[simp] theorem flagDegen_cfg (s : State) (d : Bool) : (s.flagDegen d).cfg = s.cfg := rfl
@[simp] theorem flagDegen_active (s : State) (d : Bool) : (s.flagDegen d).active = s.active := rfl
@[simp] theorem flagDegen_results (s : State) (d : Bool) :
    (s.flagDegen d).results = s.results := rfl
@[simp] theorem flagDegen_mem (s : State) (d : Bool) : (s.flagDegen d).mem = s.mem := rfl
@[simp] theorem flagDegen_epochs (s : State) (d : Bool) : (s.flagDegen d).epochs = s.epochs := rfl
@[simp] theorem flagDegen_draw (s : State) (d : Bool) : (s.flagDegen d).draw = s.draw := rfl
@[simp] theorem flagDegen_sched (s : State) (d : Bool) : (s.flagDegen d).sched = s.sched := rfl
@[simp] theorem flagDegen_rdata (s : State) (d : Bool) : (s.flagDegen d).rdata = s.rdata := rfl

@[simp] theorem hardReset_engine (s : State) : (hardReset s).engine = .idle := rfl
@[simp] theorem hardReset_cmdLast (s : State) : (hardReset s).cmdLast = 0 := rfl
@[simp] theorem hardReset_status (s : State) : (hardReset s).status = .reset := rfl
@[simp] theorem hardReset_irqEn (s : State) : (hardReset s).irqEn = .reset := rfl
@[simp] theorem hardReset_errInfo (s : State) : (hardReset s).errInfo = 0 := rfl
@[simp] theorem hardReset_cfg (s : State) : (hardReset s).cfg = .reset := rfl
@[simp] theorem hardReset_active (s : State) : (hardReset s).active = .reset := rfl
@[simp] theorem hardReset_results (s : State) : (hardReset s).results = .reset := rfl
@[simp] theorem hardReset_mem (s : State) : (hardReset s).mem = [] := rfl
@[simp] theorem hardReset_epochs (s : State) : (hardReset s).epochs = .all s.draw := rfl
@[simp] theorem hardReset_draw (s : State) : (hardReset s).draw = s.draw + 1 := rfl
@[simp] theorem hardReset_sched (s : State) : (hardReset s).sched = s.sched := rfl
@[simp] theorem hardReset_rdata (s : State) : (hardReset s).rdata = s.rdata := rfl

end Sys2Proof.Machine
end

