-- ==== Sys2Proof/Laws/Ops.lean ====
section
/-! SUPPORT. What each shared operation over the buffers does, said once: the byte read after a store, the
element and the bit read after a store of elements or bits, and the layouts that join them (20_memory
R104 to R107). -/

namespace Sys2Proof.Machine

/-- A byte depends only on the memory and the generations. -/
theorem byte_congr {s t : State} (hm : t.mem = s.mem) (he : t.epochs = s.epochs) (x : Nat) :
    t.byte x = s.byte x := by
  simp [State.byte, hm, he]

/-- An element depends only on the memory and the generations. -/
theorem elem_congr {s t : State} (hm : t.mem = s.mem) (he : t.epochs = s.epochs) (b : Buffer)
    (i : Nat) : t.elem b i = s.elem b i := by
  simp [State.elem, State.word64, State.word32, byte_congr hm he]

/-- A bit depends only on the memory and the generations. -/
theorem bit_congr {s t : State} (hm : t.mem = s.mem) (he : t.epochs = s.epochs) (i : Nat) :
    t.bit i = s.bit i := by
  simp [State.bit, byte_congr hm he]

/-- The byte read after a store of bytes: inside the run the stored byte, outside what was there. -/
theorem byte_writeBytes (s : State) (a : Nat) (bs : List Byte) (x : Nat) :
    (s.writeBytes a bs).byte x =
      if a ≤ x ∧ x < a + bs.length then bs.getD (x - a) 0 else s.byte x := by
  simp only [State.byte, writeBytes_mem, writeBytes_epochs, lookup_writeBlock]
  by_cases h : a ≤ x ∧ x < a + bs.length
  · have h4 : x - a < bs.length := by omega
    simp [h, List.getElem?_eq_getElem h4, List.getD_eq_getElem?_getD]
  · simp only [if_neg h]

/-- Another address than a buffer's own shows the same generation after that buffer gets a new one. -/
theorem ofAddr_set_outside (e : Epochs) (b : Buffer) (d x : Nat) (h : b.holds x = false) :
    (e.set b d).ofAddr x = e.ofAddr x := by
  unfold Epochs.ofAddr
  cases hx : Buffer.ofAddr? x with
  | none => rfl
  | some c =>
    have hc : c.holds x = true := List.find?_some (p := fun b : Buffer => b.holds x) hx
    have hne : c ≠ b := fun hcb => by simp [hcb, h] at hc
    cases b <;> cases c <;> first | rfl | exact absurd rfl hne

/-- The byte read after a buffer's contents became unspecified: outside the buffer, what was there. -/
theorem byte_unspecify_outside (s : State) (b : Buffer) (x : Nat) (h : b.holds x = false) :
    (s.unspecify b).byte x = s.byte x := by
  simp only [State.byte, unspecify_mem, unspecify_epochs, lookup_eraseBlock,
    ofAddr_set_outside _ _ _ _ h]
  rw [if_neg]
  intro hx
  simp [Buffer.holds, hx.1, hx.2] at h

theorem wordBytes_length (w : Word) : (wordBytes w).length = 4 := rfl

theorem f64Bytes_length (d : F64) : (f64Bytes d).length = 8 := rfl

theorem cplxBytes_length (z : Cplx) : (cplxBytes z).length = 16 := rfl

theorem flatMap_cplxBytes_length (zs : List Cplx) : (zs.flatMap cplxBytes).length = 16 * zs.length := by
  induction zs with
  | nil => rfl
  | cons z zs ih => simp [List.flatMap_cons, cplxBytes_length, ih]; omega

/-- Byte `j` of element `i` in the image of a list of elements (20_memory R106). -/
theorem flatMap_cplxBytes_getD (zs : List Cplx) (i j : Nat) (hi : i < zs.length) (hj : j < 16) :
    (zs.flatMap cplxBytes).getD (16 * i + j) 0 = (cplxBytes (zs.getD i czero)).getD j 0 := by
  induction zs generalizing i with
  | nil => simp at hi
  | cons z zs ih =>
    rw [List.flatMap_cons]
    cases i with
    | zero => rw [List.getD_append _ _ _ _ (by simp [cplxBytes_length, hj])]; simp
    | succ i =>
      rw [List.getD_append_right _ _ _ _ (by simp [cplxBytes_length]; omega)]
      have : 16 * (i + 1) + j - (cplxBytes z).length = 16 * i + j := by
        rw [cplxBytes_length]; omega
      rw [this, ih i (by simpa using hi)]
      simp

/-- The four bytes of a word, put together again, are the word (20_memory R104). -/
theorem word_of_wordBytes (w : Word) :
    (w.extractLsb' 24 8 ++ w.extractLsb' 16 8 ++ w.extractLsb' 8 8 ++ w.extractLsb' 0 8 : Word) = w := by
  apply BitVec.eq_of_getLsbD_eq
  intro i hi
  simp only [BitVec.getLsbD_append, BitVec.getLsbD_extractLsb']
  simp only [Nat.sub_sub, Nat.reduceAdd]
  by_cases h1 : i < 8
  · simp [h1]
  · by_cases h2 : i - 8 < 8
    · simp [h1, h2, show 8 + (i - 8) = i by omega]
    · by_cases h3 : i - 16 < 8
      · simp [h1, h2, h3, show 16 + (i - 16) = i by omega]
      · simp [h1, h2, h3, show 24 + (i - 24) = i by omega, show i - 24 < 8 by omega]

/-- The two words of a binary64 value, put together again, are the value (20_memory R105). -/
theorem f64_of_words (d : F64) : (d.extractLsb' 32 32 ++ d.extractLsb' 0 32 : F64) = d := by
  apply BitVec.eq_of_getLsbD_eq
  intro i hi
  simp only [BitVec.getLsbD_append, BitVec.getLsbD_extractLsb']
  by_cases h1 : i < 32
  · simp [h1]
  · simp [h1, show 32 + (i - 32) = i by omega, show i - 32 < 32 by omega]

/-- Reading back a stored word (20_memory R104, R124). -/
theorem word32_writeBytes (s : State) (a : Nat) (w : Word) :
    (s.writeBytes a (wordBytes w)).word32 a = w := by
  simp only [State.word32, byte_writeBytes, wordBytes_length]
  simp only [show a ≤ a + 3 ∧ a + 3 < a + 4 by omega, show a ≤ a + 2 ∧ a + 2 < a + 4 by omega,
    show a ≤ a + 1 ∧ a + 1 < a + 4 by omega, show a ≤ a ∧ a < a + 4 by omega, if_true,
    Nat.add_sub_cancel_left, Nat.sub_self, and_self]
  exact word_of_wordBytes w

/-- A word outside a stored run is as before. -/
theorem word32_writeBytes_outside (s : State) (a : Nat) (bs : List Byte) (x : Nat)
    (h : x + 4 ≤ a ∨ a + bs.length ≤ x) : (s.writeBytes a bs).word32 x = s.word32 x := by
  simp only [State.word32, byte_writeBytes]
  repeat rw [if_neg (by omega)]

/-- The element at an address, when the 16 bytes there are those of `z` (20_memory R106). -/
theorem elem_of_bytes (s : State) (b : Buffer) (i : Nat) (z : Cplx)
    (h : ∀ j < 16, s.byte (b.elemAddr i + j) = (cplxBytes z).getD j 0) : s.elem b i = z := by
  have hre : s.word64 (b.elemAddr i) = z.re := by
    simp only [State.word64, State.word32, Nat.add_assoc, Nat.reduceAdd]
    rw [h 7 (by omega), h 6 (by omega), h 5 (by omega), h 4 (by omega), h 3 (by omega),
      h 2 (by omega), h 1 (by omega)]
    rw [show s.byte (b.elemAddr i) = _ from h 0 (by omega)]
    refine Eq.trans ?_ (f64_of_words z.re)
    exact congrArg₂ _ (word_of_wordBytes _) (word_of_wordBytes _)
  have him : s.word64 (b.elemAddr i + 8) = z.im := by
    simp only [State.word64, State.word32, Nat.add_assoc, Nat.reduceAdd]
    rw [h 15 (by omega), h 14 (by omega), h 13 (by omega), h 12 (by omega), h 11 (by omega),
      h 10 (by omega), h 9 (by omega), h 8 (by omega)]
    refine Eq.trans ?_ (f64_of_words z.im)
    exact congrArg₂ _ (word_of_wordBytes _) (word_of_wordBytes _)
  cases z
  simp_all [State.elem]

/-- The byte read after a store of elements. -/
theorem byte_writeElems_outside (s : State) (b : Buffer) (zs : List Cplx) (x : Nat)
    (h : x < b.base ∨ b.base + 16 * zs.length ≤ x) : (s.writeElems b zs).byte x = s.byte x := by
  rw [State.writeElems, byte_writeBytes, flatMap_cplxBytes_length, if_neg (by omega)]

/-- The element read after a store of elements, inside the run. -/
theorem elem_writeElems (s : State) (b : Buffer) (zs : List Cplx) (i : Nat) (hi : i < zs.length) :
    (s.writeElems b zs).elem b i = zs.getD i czero := by
  apply elem_of_bytes
  intro j hj
  rw [State.writeElems, byte_writeBytes, flatMap_cplxBytes_length, Buffer.elemAddr,
    if_pos (by omega), show b.base + 16 * i + j - b.base = 16 * i + j by omega,
    flatMap_cplxBytes_getD zs i j hi hj]

/-- An element none of whose bytes changed is unchanged. -/
theorem elem_of_bytes_eq {s t : State} (b : Buffer) (i : Nat)
    (h : ∀ j < 16, t.byte (b.elemAddr i + j) = s.byte (b.elemAddr i + j)) :
    t.elem b i = s.elem b i := by
  simp only [State.elem, State.word64, State.word32, Nat.add_assoc, Nat.reduceAdd]
  rw [h 15 (by omega), h 14 (by omega), h 13 (by omega), h 12 (by omega), h 11 (by omega),
    h 10 (by omega), h 9 (by omega), h 8 (by omega), h 7 (by omega), h 6 (by omega), h 5 (by omega),
    h 4 (by omega), h 3 (by omega), h 2 (by omega), h 1 (by omega),
    show t.byte (b.elemAddr i) = s.byte (b.elemAddr i) from h 0 (by omega)]

/-- An element outside a store of elements is as before: the same buffer past the run, or another
address range altogether. -/
theorem elem_writeElems_outside (s : State) (b b' : Buffer) (zs : List Cplx) (i : Nat)
    (h : b'.elemAddr i + 16 ≤ b.base ∨ b.base + 16 * zs.length ≤ b'.elemAddr i) :
    (s.writeElems b zs).elem b' i = s.elem b' i :=
  elem_of_bytes_eq b' i fun j hj => byte_writeElems_outside s b zs _ (by omega)

/-- Bit `i` of a packed byte. -/
theorem packByte_getLsbD (f : Nat → Bool) (i : Nat) (hi : i < 8) : (packByte f).getLsbD i = f i := by
  simp only [packByte, BitVec.getLsbD_append, BitVec.getLsbD_ofBool]
  have : i = 0 ∨ i = 1 ∨ i = 2 ∨ i = 3 ∨ i = 4 ∨ i = 5 ∨ i = 6 ∨ i = 7 := by omega
  rcases this with rfl | rfl | rfl | rfl | rfl | rfl | rfl | rfl <;> simp

/-- The byte read after a store of bits, past the bytes stored to. -/
theorem byte_writeBits_outside (s : State) (bs : List Bool) (x : Nat)
    (h : x < Buffer.bits.base ∨ Buffer.bits.base + (bs.length + 7) / 8 ≤ x) :
    (s.writeBits bs).byte x = s.byte x := by
  rw [State.writeBits, byte_writeBytes, List.length_map, List.length_range, if_neg (by omega)]

/-- Everything a store of bits does to the bit stream: the first bits are the stored ones, every other bit
is as before, "including the unused high bits of the last partly written byte" (46_qam R294). -/
theorem bit_writeBits (s : State) (bs : List Bool) (i : Nat) :
    (s.writeBits bs).bit i = if i < bs.length then bs.getD i false else s.bit i := by
  have hdm : 8 * (i / 8) + i % 8 = i := Nat.div_add_mod i 8
  have hlt : i % 8 < 8 := Nat.mod_lt _ (by omega)
  rw [State.bit, State.writeBits, byte_writeBytes, List.length_map, List.length_range]
  by_cases hin : i / 8 < (bs.length + 7) / 8
  · rw [if_pos (by omega), Nat.add_sub_cancel_left, List.getD_eq_getElem?_getD,
      List.getElem?_map, List.getElem?_range hin]
    simp only [Option.map_some, Option.getD_some]
    rw [packByte_getLsbD _ _ hlt]
    simp only [hdm]
    split
    · next h => simp [List.getD_eq_getElem?_getD, List.getElem?_eq_getElem h]
    · next h => simp [List.getD_eq_getElem?_getD, List.getElem?_eq_none (not_lt.1 h)]
  · rw [if_neg (by omega), if_neg (by omega)]
    rfl

/-- The canonical form is kept by every store. -/
theorem writeBytes_wf {s : State} (h : s.mem.wf) (a : Nat) (bs : List Byte) :
    (s.writeBytes a bs).mem.wf := writeBlock_wf h a bs

/-- The canonical form is kept when a buffer becomes unspecified. -/
theorem unspecify_wf {s : State} (h : s.mem.wf) (b : Buffer) : (s.unspecify b).mem.wf :=
  eraseBlock_wf h _ _

end Sys2Proof.Machine
end

