-- ==== Sys2Proof/Laws/PerInstr.lean ====
section
/-! SUPPORT. The statements made of every command as syntax, one lemma per constructor of Instr. Family
`EncodeFields`: the word of a command holds its opcode in bits 31:24 and its argument in bits 23:0
(30_encoding R140). -/

namespace Sys2Proof.Laws

/-- OPC of a word put together from two fields. -/
theorem opcField_append (o : BitVec 8) (a : BitVec 24) : opcField (o ++ a) = o := by
  apply BitVec.eq_of_getLsbD_eq
  intro i hi
  unfold opcField
  rw [BitVec.getLsbD_extractLsb', BitVec.getLsbD_append]
  simp [hi]

/-- ARG of a word put together from two fields. -/
theorem argField_append (o : BitVec 8) (a : BitVec 24) : argField (o ++ a) = a := by
  apply BitVec.eq_of_getLsbD_eq
  intro i hi
  unfold argField
  rw [BitVec.getLsbD_extractLsb', BitVec.getLsbD_append]
  simp [hi]

/-- The two fields of the word of a command. -/
def EncodeFields.Statement (i : Instr) : Prop :=
  opcField (encode i) = i.opcode ∧ argField (encode i) = i.arg

theorem EncodeFields.nop : EncodeFields.Statement .nop :=
  ⟨opcField_append _ _, argField_append _ _⟩
theorem EncodeFields.config : EncodeFields.Statement .config :=
  ⟨opcField_append _ _, argField_append _ _⟩
theorem EncodeFields.precode (cnt : Nat) : EncodeFields.Statement (.precode cnt) :=
  ⟨opcField_append _ _, argField_append _ _⟩
theorem EncodeFields.decode (cnt : Nat) : EncodeFields.Statement (.decode cnt) :=
  ⟨opcField_append _ _, argField_append _ _⟩
theorem EncodeFields.map (cnt : Nat) : EncodeFields.Statement (.map cnt) :=
  ⟨opcField_append _ _, argField_append _ _⟩
theorem EncodeFields.extractData (src : Src) : EncodeFields.Statement (.extractData src) :=
  ⟨opcField_append _ _, argField_append _ _⟩
theorem EncodeFields.extractPilots (src : Src) : EncodeFields.Statement (.extractPilots src) :=
  ⟨opcField_append _ _, argField_append _ _⟩
theorem EncodeFields.ifftCp : EncodeFields.Statement .ifftCp :=
  ⟨opcField_append _ _, argField_append _ _⟩
theorem EncodeFields.cpFft (cnt : Nat) : EncodeFields.Statement (.cpFft cnt) :=
  ⟨opcField_append _ _, argField_append _ _⟩
theorem EncodeFields.chest : EncodeFields.Statement .chest :=
  ⟨opcField_append _ _, argField_append _ _⟩
theorem EncodeFields.equalize : EncodeFields.Statement .equalize :=
  ⟨opcField_append _ _, argField_append _ _⟩
theorem EncodeFields.qamMap (cnt : Nat) : EncodeFields.Statement (.qamMap cnt) :=
  ⟨opcField_append _ _, argField_append _ _⟩
theorem EncodeFields.qamDemap (cnt : Nat) : EncodeFields.Statement (.qamDemap cnt) :=
  ⟨opcField_append _ _, argField_append _ _⟩
theorem EncodeFields.qamDetect (cnt : Nat) : EncodeFields.Statement (.qamDetect cnt) :=
  ⟨opcField_append _ _, argField_append _ _⟩

end Sys2Proof.Laws
end

