-- ==== Sys2Proof/Laws/Transform.lean ====
section
/-! SUPPORT. All that is known of the two open functions: XFORM has the properties of 00_scope R27, and the
logarithm is as near as R28 asks where R28 states no value. -/

namespace Sys2Proof.Machine

/-- The properties of XFORM (00_scope R25, R27). -/
theorem xform_meets (dir : Dir) (n : Nat) (x : List Cplx) :
    Ideal.FftProperties dir n x (xform dir n x) :=
  (@Config.fftImpl ⟨Possible.fftImpl⟩).meets dir n x

/-- XFORM of length `n` has `n` outputs. -/
@[simp] theorem xform_length (dir : Dir) (n : Nat) (x : List Cplx) : (xform dir n x).length = n :=
  (xform_meets dir n x).length

/-- Every output of XFORM on an all-zero input is a zero (00_scope R27 (b)). -/
theorem xform_getD_isZero (dir : Dir) {n : Nat} {x : List Cplx} (hl : x.length = n)
    (hz : ∀ z ∈ x, Cx.isZero z = true) (k : Nat) : Cx.isZero ((xform dir n x).getD k czero) = true := by
  have h := List.all_eq_true.1 ((xform_meets dir n x).zero hl (List.all_eq_true.2 hz))
  rw [List.getD_eq_getElem?_getD]
  cases hk : (xform dir n x)[k]? with
  | none => decide
  | some z => exact h z (List.mem_of_getElem? hk)

/-- The logarithm of a finite positive argument other than 1 is LOG10_IMPL's (00_scope R28). -/
theorem log10_of_ordinary {q : F64} (hf : Fp.isFinite q = true) (hpos : Fp.lt 0 q = true)
    (hq : q ≠ Fp.one) : log10 q = (@Config.log10Impl ⟨Possible.log10Impl⟩).run q := by
  have hz : Fp.isZero q = false := by
    by_contra h
    rw [Bool.not_eq_false] at h
    have h0 : Fp.units 0 = 0 := Fp.units_of_isZero (by decide)
    simp only [Fp.lt, Fp.units_of_isZero h, h0, Bool.and_eq_true, decide_eq_true_eq] at hpos
    exact absurd hpos.2 (lt_irrefl 0)
  simp only [Fp.isFinite, bne_iff_ne] at hf
  simp [log10, Fp.isNaN, Fp.isInf, hf, hz, hq]

end Sys2Proof.Machine
end

