-- ==== Sys2Proof/Machine/HostProgram.lean ====
section
/-! DEFINITION. The host statements and pseudo-instructions of 30_encoding R147, as the events they
expand to. `wait` polls until BUSY = 0; as a fixed list of events it is the engine's turn and one read of
STATUS, which then returns BUSY = 0 (DESIGN CHOICE, log 1). -/

namespace Sys2Proof.Machine

/-- `wr R, v`. -/
def wr (r : Reg) (v : Word) : List Event := [.memWrite (BitVec.ofNat 18 r.offset) v]

/-- `rd R`. -/
def rd (r : Reg) : List Event := [.memRead (BitVec.ofNat 18 r.offset)]

/-- `wrz BUF[i], re, im`: four word writes. -/
def wrz (b : Buffer) (i : Nat) (z : Cplx) : List Event :=
  [.memWrite (BitVec.ofNat 18 (b.elemAddr i)) (z.re.extractLsb' 0 32),
   .memWrite (BitVec.ofNat 18 (b.elemAddr i + 4)) (z.re.extractLsb' 32 32),
   .memWrite (BitVec.ofNat 18 (b.elemAddr i + 8)) (z.im.extractLsb' 0 32),
   .memWrite (BitVec.ofNat 18 (b.elemAddr i + 12)) (z.im.extractLsb' 32 32)]

/-- `rdz BUF[i]`: the four matching reads. -/
def rdz (b : Buffer) (i : Nat) : List Event :=
  [.memRead (BitVec.ofNat 18 (b.elemAddr i)), .memRead (BitVec.ofNat 18 (b.elemAddr i + 4)),
   .memRead (BitVec.ofNat 18 (b.elemAddr i + 8)), .memRead (BitVec.ofNat 18 (b.elemAddr i + 12))]

/-- `wrbits w0, w1, …`: successive BITS words. -/
def wrbits (ws : List Word) : List Event :=
  (List.range ws.length).map fun j =>
    .memWrite (BitVec.ofNat 18 (Buffer.bits.base + 4 * j)) (ws.getD j 0)

/-- `issue cmd`. -/
def issue (w : Word) : List Event := wr .cmd w

/-- `wait`. -/
def wait : List Event := [.engineTurn] ++ rd .status

/-- `run cmd`. -/
def run (w : Word) : List Event := issue w ++ wait

/-- `clrst`: clears the six sticky flags. -/
def clrst : List Event := wr .status 0x000000F6

end Sys2Proof.Machine
end

