-- ==== Sys2Proof/Tests/Slice0.lean ====
section
/-! SUPPORT. Tests, as named theorems: ill-formed terms refused, one word of every command written out from
its encoding (30_encoding R141, R143, R146), at most two small steps for each command with the results of
95_test_vectors, and for every statement that has hypotheses a witness that meets them. Expected values come
from spec/95_test_vectors.md (the vector is named) or from the rule named. -/

namespace Sys2Proof.Tests

open Sys2Proof.Machine

-- One theorem after another: elaborated all at once, the kernel evaluations want a thread each.
set_option Elab.async false

/-! ### Well-formedness and decoding -/

theorem test_precode_count_too_wide : (Instr.precode 16777216).wellFormed = false := by decide
theorem test_decode_count_too_wide : (Instr.decode 16777216).wellFormed = false := by decide
theorem test_map_count_too_wide : (Instr.map 16777216).wellFormed = false := by decide
theorem test_cpFft_count_too_wide : (Instr.cpFft 16777216).wellFormed = false := by decide
theorem test_qamMap_count_too_wide : (Instr.qamMap 16777216).wellFormed = false := by decide
theorem test_qamDemap_count_too_wide : (Instr.qamDemap 16777216).wellFormed = false := by decide
theorem test_qamDetect_count_too_wide : (Instr.qamDetect 16777216).wellFormed = false := by decide

/-- V-ENC: opcode in bits 31:24, argument in bits 23:0. -/
theorem test_word_nop : decode 0b00000000_000000000000000000000000 = .ok .nop := by decide
theorem test_word_config : decode 0b00000001_000000000000000000000000 = .ok .config := by decide
theorem test_word_precode : decode 0b00010000_000000000000000000001001 = .ok (.precode 9) := by decide
theorem test_word_decode : decode 0b00010001_000000000000000011111001 = .ok (.decode 249) := by decide
theorem test_word_map : decode 0b00100000_000000000000000000001001 = .ok (.map 9) := by decide
theorem test_word_extract_data_freq :
    decode 0b00100001_000000000000000000000000 = .ok (.extractData .freq) := by decide
theorem test_word_extract_data_eq :
    decode 0b00100001_000000000000000000000001 = .ok (.extractData .eq) := by decide
theorem test_word_extract_pilots_eq :
    decode 0b00100010_000000000000000000000001 = .ok (.extractPilots .eq) := by decide
theorem test_word_ifft_cp : decode 0b00110000_000000000000000000000000 = .ok .ifftCp := by decide
theorem test_word_cp_fft : decode 0b00110001_000000000000000000010100 = .ok (.cpFft 20) := by decide
theorem test_word_cp_fft_largest :
    decode 0b00110001_111111111111111111111111 = .ok (.cpFft 16777215) := by decide
theorem test_word_chest : decode 0b01000000_000000000000000000000000 = .ok .chest := by decide
theorem test_word_equalize : decode 0b01000001_000000000000000000000000 = .ok .equalize := by decide
theorem test_word_qam_map : decode 0b01010000_000000000000000000010010 = .ok (.qamMap 18) := by decide
theorem test_word_qam_demap : decode 0b01010001_000000000000000000001001 = .ok (.qamDemap 9) := by decide
theorem test_word_qam_detect :
    decode 0b01010010_000000000000000000000001 = .ok (.qamDetect 1) := by decide

/-- V-ENC: the rejected words, with what ERR_INFO reports. -/
theorem test_word_illegal : decode 0x02000000 = .error (.illegalOpcode 0x02) := by decide
theorem test_word_reserved_z : decode 0x00000001 = .error (.reservedArg 1) := by decide
theorem test_word_reserved_s : decode 0x21000002 = .error (.reservedArg 2) := by decide
theorem test_word_reserved_high : decode 0x40800000 = .error (.reservedArg 0x800000) := by decide
theorem test_table_word : decodeTableWord 32 0x500001F2 = some (.qamMap 498) := by decide

/-! ### Small states -/

/-- The state of a next outcome. -/
def after : Host.Outcome State Fault Refusal → State
  | .next s => s
  | .fault _ => .reset
  | .refused _ => .reset

/-- Just after a CONFIG that latched `c`. -/
def conf (c : HostConfig) : State :=
  { State.reset with
    cfg := c, active := c.derive, status := { Status.reset with cfgValid := true } }

/-- G16 of 95_test_vectors: N 16, Nc 12, CP 4, QPSK, LTE. -/
def g16 : HostConfig := { HostConfig.reset with log2n := 4, nc := 12, cp := 4 }

/-- The smallest legal grid: N 8, Nc 2 (M 1, P 0), CP 0. -/
def smallest : HostConfig := { HostConfig.reset with log2n := 3, nc := 2 }

/-- The largest legal grid: N 2048, Nc 2048, CP 2048. -/
def largest : HostConfig := { HostConfig.reset with log2n := 11, nc := 2048, cp := 2048 }

/-- N 8, Nc 8: no guards, one pilot at 3, data at 0, 1, 2, 5, 6, 7 (V-CONFIG row 12). -/
def g8 : HostConfig := { HostConfig.reset with log2n := 3, nc := 8, cp := 2 }

/-- 1.0 -/
def one : Cplx := ⟨0x3FF0000000000000, 0⟩

/-- The QPSK coordinate 1/√2, `a` of 95_test_vectors. -/
def a : F64 := 0x3FE6A09E667F3BCD

/-- `-a`. -/
def na : F64 := 0xBFE6A09E667F3BCD

/-- A state with a pending word. -/
def pending (w : Word) (s : State) : State := { s with engine := .pending w, cmdLast := w }

/-! ### One step of each command -/

/-- R170: `run nop` on an idle block leaves STATUS 0x00000002. -/
theorem test_nop_status : (after (exec .nop State.reset)).statusWord = 0x00000002 := by decide

/-- V-CONFIG row 8. -/
theorem test_config_derives :
    ([Reg.status, .actN, .actNc, .actCp, .actCfg, .guardLeft, .guardRight, .dcIndex, .dataCount,
      .pilotCount, .timeLen].map (after (exec .config { State.reset with cfg := g16 })).readReg) =
      [0x0001000A, 16, 12, 4, 0x00020004, 2, 2, 8, 9, 2, 20] := by decide +kernel

/-- V-CONFIG row 7: CP above N. -/
theorem test_config_rejects_cp :
    (after (exec .config { State.reset with cfg := { g16 with cp := 17 } })).statusWord = 0x00010706 := by
  decide +kernel

/-- V-PRECODE row 4. -/
theorem test_precode_size :
    let t := after (exec (.precode 8) (conf { g16 with scfdmEn := true }))
    t.status.errCode = .sizeMismatch ∧ t.errInfo = 9 := by decide +kernel

/-- V-PRECODE row 3. -/
theorem test_precode_disabled :
    let t := after (exec (.precode 8) (conf g16))
    t.results.outLen = 8 ∧ t.mem = [] := by decide +kernel

/-- R201: a capacity check comes before the size check, as in V-PRECODE row 5. -/
theorem test_decode_capacity :
    let t := after (exec (.decode 2049) (conf { g16 with scfdmEn := true }))
    t.status.errCode = .capacity ∧ t.errInfo = 2048 := by decide +kernel

/-- R202: the disabled decoder. -/
theorem test_decode_disabled : (after (exec (.decode 8) (conf g16))).results.outLen = 8 := by
  decide +kernel

/-- R220 with two symbols on N 8, Nc 8: data at 0 and 1, the pilot at 3, zero elsewhere. -/
theorem test_map_lte :
    let s := ((conf g8).writeElems .sym [⟨1, 2⟩, ⟨3, 4⟩]).writeElems .pil [⟨5, 6⟩]
    (after (exec (.map 2) s)).elems .freq 8 =
      [⟨1, 2⟩, ⟨3, 4⟩, czero, ⟨5, 6⟩, czero, czero, czero, czero] := by decide +kernel

/-- R220: the metadata of that MAP, and the count of slots M = 6 as ERR_INFO of one too many. -/
theorem test_map_metadata :
    let t := after (exec (.map 2) (conf g8))
    (t.results.mapData, t.results.mapPilot, t.results.mapNull, t.results.outLen) = (2, 1, 5, 8) ∧
      (after (exec (.map 7) (conf g8))).errInfo = 6 := by decide +kernel

/-- R221: the data slots of N 8, Nc 8 are 0, 1, 2, 5, 6, 7. -/
theorem test_extract_data_lte :
    let s := (conf g8).writeElems .eq ((List.range 8).map fun k => ⟨BitVec.ofNat 64 k, 0⟩)
    (after (exec (.extractData .eq) s)).elems .sym 6 =
      [⟨0, 0⟩, ⟨1, 0⟩, ⟨2, 0⟩, ⟨5, 0⟩, ⟨6, 0⟩, ⟨7, 0⟩] := by decide +kernel

/-- R221: SIMPLE mode takes the first Nc bins. -/
theorem test_extract_data_simple :
    let s := (conf { smallest with simple := true }).writeElems .freq [⟨8, 9⟩, ⟨10, 11⟩]
    (after (exec (.extractData .freq) s)).elems .sym 2 = [⟨8, 9⟩, ⟨10, 11⟩] := by decide +kernel

/-- R222: the pilot of N 8, Nc 8 is at 3. -/
theorem test_extract_pilots :
    let s := (conf g8).writeElems .freq ((List.range 8).map fun k => ⟨BitVec.ofNat 64 k, 1⟩)
    (after (exec (.extractPilots .freq) s)).elem .prx 0 = ⟨3, 1⟩ := by decide +kernel

/-- V-ERR row 5, for the other pilot command. -/
theorem test_extract_pilots_mode :
    let t := after (exec (.extractPilots .freq) (conf { g16 with simple := true }))
    t.status.errCode = .mode ∧ t.errInfo = 1 := by decide +kernel

/-- R240: OUT_LEN is N + CP. -/
theorem test_ifft_cp_length : (after (exec .ifftCp (conf g16))).results.outLen = 20 := by decide +kernel

/-- V-ERR row 1. -/
theorem test_ifft_cp_not_configured : (after (exec .ifftCp State.reset)).statusWord = 0x00300306 := by
  decide

/-- R241: 12 of 20 samples received, as in program P4. -/
theorem test_cp_fft_padding :
    let t := after (exec (.cpFft 12) (conf g16))
    t.results.rxPad = 8 ∧ t.results.outLen = 16 := by decide +kernel

/-- R241: no samples, an empty output. -/
theorem test_cp_fft_empty :
    let t := after (exec (.cpFft 0) (conf g16))
    t.results.outLen = 0 ∧ t.status.err = false ∧ t.mem = [] := by decide +kernel

/-- V-CHEST-1: pilots (1, 0) and (0, 1), received (2, 0) and (0, 4). -/
theorem test_chest_interpolates :
    let s := (((conf g16).writeElems .pil [one, ⟨0, one.re⟩]).writeElems .freq
      (List.replicate 16 ⟨0x4000000000000000, 0⟩)).writeBytes (Buffer.freq.elemAddr 11)
        (cplxBytes ⟨0, 0x4010000000000000⟩)
    let t := after (exec .chest s)
    t.elem .chan 6 = ⟨0x4002AAAAAAAAAAAB, 0⟩ ∧
      t.elem .chan 8 = ⟨0x4008000000000000, 0⟩ ∧
      t.results.snrSig = 0x4024000000000000 ∧ t.results.snrNoise = 0x4014000000000000 := by
  decide +kernel

/-- V-CONFIG row 10 with R260: no pilots. -/
theorem test_chest_no_pilots : (after (exec .chest (conf smallest))).status.errCode = .noPilots := by
  decide +kernel

/-- R280, its example. -/
theorem test_equalize_divides :
    let s := ((conf smallest).writeElems .chan (List.replicate 8 one)).writeElems .freq
      (List.replicate 8 one)
    let t := after (exec .equalize s)
    t.elem .eq 7 = ⟨0x3FEFFFFDE7212F18, 0⟩ ∧ t.results.degenCount = 0 ∧ t.status.degen = false := by
  decide +kernel

/-- V-EQ: CHAN[k] = (−1e-6, 0) everywhere is a zero denominator everywhere. -/
theorem test_equalize_degenerate :
    let s := (conf smallest).writeElems .chan (List.replicate 8 ⟨0xBEB0C6F7A0B5ED8D, 0⟩)
    let t := after (exec .equalize s)
    t.elem .eq 0 = czero ∧ t.results.degenCount = 8 ∧ t.status.degen = true := by decide +kernel

/-- V-QAM-4 row 1: QPSK, BITS byte 0 = 0x06. -/
theorem test_qam_map :
    let s := (conf g16).writeBytes 0x02000 [0x06]
    (after (exec (.qamMap 4) s)).elems .sym 2 = [⟨a, na⟩, ⟨na, a⟩] := by decide +kernel

/-- V-ERR row 7: CAPACITY before BIT_LEN. -/
theorem test_qam_map_capacity :
    let t := after (exec (.qamMap 8193) (conf g16))
    t.status.errCode = .capacity ∧ t.errInfo = 4096 := by decide +kernel

/-- V-QAM-4 row 2: bits 0, 1, 1, 0, and the rest of the byte kept. -/
theorem test_qam_demap :
    let s := ((conf g16).writeBytes 0x02000 [0xF0]).writeElems .sym [⟨a, na⟩, ⟨na, a⟩]
    let t := after (exec (.qamDemap 2) s)
    t.byte 0x02000 = 0xF6 ∧ t.results.outLen = 4 := by decide +kernel

/-- V-QAM-4 row 9: QPSK, (0.1, −3.0). -/
theorem test_qam_detect :
    let s := (conf g16).writeElems .sym [⟨0x3FB999999999999A, 0xC008000000000000⟩]
    (after (exec (.qamDetect 1) s)).elem .sym 0 = ⟨a, na⟩ := by decide +kernel

/-- V-QAM-4 row 10: 16-QAM, (NaN, 5.0). -/
theorem test_qam_detect_nan :
    let s := (conf { g16 with mod := 1 }).writeElems .sym [⟨0x7FF8000000000000, 0x4014000000000000⟩]
    (after (exec (.qamDetect 1) s)).elem .sym 0 = ⟨0x3FD43D136248490F, 0x3FEE5B9D136C6D96⟩ := by
  decide +kernel

/-! ### Host port -/

/-- V-GRID rows 11 and 13. -/
theorem test_grid_info :
    ({ conf g16 with cfg := { g16 with gridK := 11 } } : State).readReg .gridInfo = 0x80010001 ∧
      ({ conf g16 with cfg := { g16 with gridK := 13 } } : State).readReg .gridInfo = 0x80080000 := by
  decide +kernel

/-- V-HOST rows 1, 3, 4 and 5. -/
theorem test_host_reads :
    (hostRead 0x00000 State.reset).rdata = 0x4F46444D ∧
      (hostRead 0x10002 State.reset).status.busErr = true ∧
      (hostRead 0x00100 State.reset).status.busErr = true ∧
      (hostRead 0x0001C State.reset).status.busErr = true := by decide

/-- V-HOST row 6: FREQ[5].im bits 63:32. -/
theorem test_host_write_element :
    (hostWrite 0x1005C 0x89ABCDEF (conf g16)).word32 (Buffer.freq.elemAddr 5 + 12) = 0x89ABCDEF := by
  decide +kernel

/-- V-HOST rows 8 to 10: a pending command refuses. -/
theorem test_host_refused :
    (hostWrite 0x0000C 0 (pending 0 (conf g16))).status.cmdOvr = true ∧
      (hostWrite 0x10000 1 (pending 0 (conf g16))).status.hostConflict = true ∧
      (hostWrite 0x10000 1 (pending 0 (conf g16))).mem = [] ∧
      (hostRead 0x10000 (pending 0 (conf g16))).rdata = 0 := by decide +kernel

/-- V-HOST row 13: irq from a completion until the host clears DONE. -/
theorem test_irq :
    let s := after (exec .nop { State.reset with irqEn := { IrqEnable.reset with doneIe := true } })
    s.irq = true ∧ (hostWrite 0x00010 2 s).irq = false := by decide

/-- R147, R81: `run nop` from reset, in its three events. -/
theorem test_run_nop :
    (Host.Core.run Sys2Proof.core 3 { State.reset with sched := run 0x00000000 } : _) =
      .next { State.reset with status := { Status.reset with done := true }, rdata := 0x00000002 } := by
  rfl

/-- The host's fetch hook: the very next step runs the word. -/
theorem test_fetch_word :
    (after (step (State.reset.withFetchWord 32 0xFF000000))).statusWord = 0x00FF0106 := by decide

/-! ### Witnesses: the hypotheses of every statement can be met -/

theorem witness_smallest_configured : (conf smallest).configured := by decide +kernel
theorem witness_largest_configured : (conf largest).configured := by decide +kernel
theorem witness_g16_configured : (conf g16).configured := by decide +kernel
theorem witness_g8_configured : (conf g8).configured := by decide +kernel
theorem witness_g8_simple_configured : (conf { g8 with simple := true }).configured := by
  decide +kernel

/-- Statements about well-formed commands: the extreme counts. -/
theorem witness_DecodeOfEncode :
    (Instr.cpFft 16777215).wellFormed = true ∧ (Instr.qamMap 0).wellFormed = true ∧
      Instr.nop.wellFormed = true := by decide

/-- One word of each clause, at the edges of ARG. -/
theorem witness_WordsDecodeOrAreRejected :
    (opcField 0x02000000).toNat = 0x02 ∧
      ((opcField 0x30000001).toNat = 0x30 ∧ (argField 0x30000001).toNat = 1) ∧
      ((opcField 0x21000002).toNat = 0x21 ∧ (argField 0x21000002).toNat = 2) ∧
      ((opcField 0x22000001).toNat = 0x22 ∧ (argField 0x22000001).toNat = 1) := by decide

theorem witness_StepRunsDecodedCommand :
    (pending 0x01000000 State.reset).engine = .pending 0x01000000 ∧
      decode 0x01000000 = .ok .config ∧ (pending 0x01000000 State.reset).sched = [] ∧
      ({ pending 0x01000000 State.reset with sched := [.engineTurn] } : State).sched =
        .engineTurn :: [] := by decide

theorem witness_StepRejectsOtherWords :
    (pending 0xFF000000 State.reset).engine = .pending 0xFF000000 ∧
      (pending 0xFF000000 State.reset).sched = [] ∧
      decode 0xFF000000 = .error (.illegalOpcode 0xFF) ∧
      (pending 0x30000005 State.reset).engine = .pending 0x30000005 ∧
      (pending 0x30000005 State.reset).sched = [] ∧
      decode 0x30000005 = .error (.reservedArg 5) := by decide

theorem witness_StepKeepsInvariant : (conf g16).Inv ∧ step (conf g16) = .next (conf g16) := by
  refine ⟨⟨List.Pairwise.nil, fun _ h => ?_, fun _ => witness_g16_configured.2, fun h => ?_,
    fun _ h => ?_, fun _ => rfl⟩, rfl⟩
  · simp [conf, State.reset] at h
  · cases h
  · cases h

theorem witness_ErrorsArePrecise :
    let s := pending 0x30000000 State.reset
    s.engine = .pending 0x30000000 ∧ engineTurn s = .next (s.raiseError 0x30 .notConfigured 0) ∧
      (s.raiseError 0x30 .notConfigured 0).status.errCode ≠ .ok := ⟨rfl, rfl, by decide⟩

theorem witness_NotConfiguredBeforeConfig :
    Instr.ifftCp ≠ .nop ∧ Instr.ifftCp ≠ .config ∧ State.reset.status.cfgValid = false := by decide

/-- Each of CONFIG's four checks, at both edges of its range. -/
theorem witness_ConfigRejectsIllegalShadow :
    ({ smallest with mod := 3 } : HostConfig).mod = 3 ∧
      (smallest.mod ≠ 3 ∧ ({ smallest with log2n := 2 } : HostConfig).log2n.toNat < 3 ∧
        11 < ({ smallest with log2n := 12 } : HostConfig).log2n.toNat) ∧
      (3 ≤ smallest.log2n.toNat ∧ smallest.log2n.toNat ≤ 11 ∧
        ({ smallest with nc := 1 } : HostConfig).nc.toNat < 2 ∧
        2 ^ smallest.log2n.toNat < ({ smallest with nc := 9 } : HostConfig).nc.toNat) ∧
      (2 ≤ smallest.nc.toNat ∧ smallest.nc.toNat ≤ 2 ^ smallest.log2n.toNat ∧
        2 ^ smallest.log2n.toNat < ({ smallest with cp := 9 } : HostConfig).cp.toNat) := by decide

theorem witness_CapacityChecked :
    (conf g16).status.cfgValid = true ∧ 2048 < 2049 ∧ 4096 < 4097 ∧ (conf g16).bps * 2048 < 4097 := by
  decide

theorem witness_CountOfWrongSizeRaises :
    (conf { g16 with scfdmEn := true }).status.cfgValid = true ∧
      ((conf { g16 with scfdmEn := true }).cfg.scfdmEn = true ∧
        10 ≠ (conf { g16 with scfdmEn := true }).M) ∧
      ((conf g16).active.simple = false ∧ (conf g16).M < 10) ∧
      ((conf { g16 with simple := true }).status.cfgValid = true ∧
        (conf { g16 with simple := true }).active.simple = true ∧
        (conf { g16 with simple := true }).Nc < 13) ∧
      (1 ≤ (conf g16).bps * 2048 ∧ 1 % (conf g16).bps ≠ 0) := by decide +kernel

theorem witness_PilotCommandsChecked :
    (conf { g16 with simple := true }).status.cfgValid = true ∧
      (conf { g16 with simple := true }).active.simple = true ∧
      ((conf smallest).status.cfgValid = true ∧ (conf smallest).active.simple = false ∧
        (conf smallest).P = 0) ∧
      (let s := (conf g16).writeElems .pil [one, czero]
       s.status.cfgValid = true ∧ s.active.simple = false ∧ 1 < s.P ∧
         Fp.eq (Cx.abs2 (s.elem .pil 1)) 0 = true ∧
         ∀ j < 1, Fp.eq (Cx.abs2 (s.elem .pil j)) 0 = false) := by decide +kernel

/-- The smallest and the largest shadow that CONFIG accepts. -/
theorem witness_ConfigLatchesAndDerives :
    (smallest.mod.toNat ≠ 3 ∧ 3 ≤ smallest.log2n.toNat ∧ smallest.log2n.toNat ≤ 11 ∧
      2 ≤ smallest.nc.toNat ∧ smallest.nc.toNat ≤ 2 ^ smallest.log2n.toNat ∧
      smallest.cp.toNat ≤ 2 ^ smallest.log2n.toNat) ∧
    (largest.mod.toNat ≠ 3 ∧ 3 ≤ largest.log2n.toNat ∧ largest.log2n.toNat ≤ 11 ∧
      2 ≤ largest.nc.toNat ∧ largest.nc.toNat ≤ 2 ^ largest.log2n.toNat ∧
      largest.cp.toNat ≤ 2 ^ largest.log2n.toNat) := by decide +kernel

theorem witness_GridClosedForms :
    (8 % 2 = 0 ∧ 2 ≤ 2 ∧ 2 ≤ 8) ∧ (2048 % 2 = 0 ∧ 2 ≤ 2048 ∧ 2048 ≤ 2048) := by decide

theorem witness_GridInvariants :
    (8 % 2 = 0 ∧ 2 ≤ 2 ∧ 2 ≤ 8) ∧ (16 % 2 = 0 ∧ 2 ≤ 9 ∧ 9 ≤ 16) := by decide

theorem witness_OrdinalInvertsIndex :
    5 < (⟨8, 8⟩ : Grid).count .data ∧ 0 < (⟨8, 8⟩ : Grid).count .pilot ∧ 7 < (⟨8, 8⟩ : Grid).n := by
  decide

/-- GRID_K at the last index of the grid and just past it. -/
theorem witness_GridInfoAnswersQuery :
    ((conf { g16 with gridK := 15 }).configured ∧
      (conf { g16 with gridK := 15 }).cfg.gridK.toNat < (conf { g16 with gridK := 15 }).N) ∧
      (conf { g16 with gridK := 16 }).N ≤ (conf { g16 with gridK := 16 }).cfg.gridK.toNat ∧
      State.reset.status.cfgValid = false := by decide +kernel

theorem witness_PrecoderTransformsInPlace :
    (conf { g16 with scfdmEn := true }).configured ∧
      (conf { g16 with scfdmEn := true }).cfg.scfdmEn = true := by decide +kernel

theorem witness_DisabledPrecoderIsIdentity :
    (conf g16).cfg.scfdmEn = false ∧ (conf g16).status.cfgValid = true ∧ 2048 ≤ 2048 ∧ 2048 < 2049 ∧
      State.reset.cfg.scfdmEn = false ∧ State.reset.status.cfgValid = false := by decide

/-- An input that some output is accurate for, one above the lower limit, and one of length one. -/
theorem witness_TransformIsAccurate :
    (Ideal.inDomain [czero, czero] = true ∧
      ∃ y, y.length = 2 ∧ Ideal.Accurate .fwd 2 [czero, czero] y) ∧
    (1 ≤ 2 ∧ 2 ≤ 2048 ∧ [one, one].length = 2 ∧ Ideal.inDomain [one, one] = true ∧
      ∃ z ∈ [one, one], 2 ^ 45 ≤ Fp.mag z.re ∨ 2 ^ 45 ≤ Fp.mag z.im) ∧
    [one].length = 1 ∧ Ideal.inDomain [one] = true :=
  ⟨⟨by decide +kernel, [czero, czero], rfl, Ideal.accurate_zero _ _ (by decide)⟩,
    ⟨by decide, by decide, by decide, by decide +kernel, one, by simp, .inl (by decide +kernel)⟩,
    by decide, by decide +kernel⟩

/-- The full grid, for MAP and the extractions in LTE mode. -/
theorem witness_MapFillsLteGrid :
    (conf g8).configured ∧ (conf g8).active.simple = false ∧ 6 ≤ (conf g8).M := by decide +kernel

theorem witness_MapFillsFirstBins :
    (conf { g8 with simple := true }).configured ∧
      (conf { g8 with simple := true }).active.simple = true ∧
      8 ≤ (conf { g8 with simple := true }).Nc := by decide +kernel

theorem witness_ExtractDataCopiesSlots :
    (conf g8).status.cfgValid = true ∧ (conf g8).active.simple = false ∧
      (conf { g8 with simple := true }).status.cfgValid = true ∧
      (conf { g8 with simple := true }).active.simple = true := by decide

theorem witness_ExtractPilotsCopiesPilots :
    (conf g8).status.cfgValid = true ∧ (conf g8).active.simple = false := by decide

theorem witness_ExtractAfterMapRestores :
    (conf g8).configured ∧ (conf g8).active.simple = false ∧ 2 ≤ (conf g8).M ∧
      ∃ t u v, exec (.map 2) (conf g8) = .next t ∧ exec (.extractData .freq) t = .next u ∧
        exec (.extractPilots .freq) u = .next v :=
  ⟨by decide +kernel, by decide, by decide +kernel, _, _, _, rfl, rfl, rfl⟩

theorem witness_IfftCpWritesPrefixedSymbol : (conf smallest).configured ∧ (conf largest).configured :=
  ⟨witness_smallest_configured, witness_largest_configured⟩

/-- The shortest and the longest received length. -/
theorem witness_CpFftTransformsReceived :
    (conf g16).configured ∧ 0 < 1 ∧ 1 ≤ 4096 ∧ 0 < 4096 ∧ 4096 ≤ 4096 :=
  ⟨witness_g16_configured, by decide⟩

theorem witness_CpFftOfNothingIsEmpty : (conf g16).status.cfgValid = true := rfl

/-- Two states that differ in the first sample of the prefix only. -/
theorem witness_CpFftIgnoresPrefixAndPadding :
    let s := conf g16
    let s' := (conf g16).writeElems .time [one]
    s.status.cfgValid = true ∧ s'.status.cfgValid = true ∧ s'.active = s.active ∧ 0 < 20 ∧
      20 ≤ 4096 ∧
      (∀ i, s.CP ≤ i → i < 20 → i < s.CP + s.N → s'.elem .time i = s.elem .time i) ∧
      (∃ t, exec (.cpFft 20) s = .next t) ∧ ∃ t', exec (.cpFft 20) s' = .next t' := by
  refine ⟨rfl, rfl, rfl, by decide, by decide, fun i h _ _ => ?_, ⟨_, rfl⟩, ⟨_, rfl⟩⟩
  have h4 : (conf g16).CP = 4 := rfl
  exact elem_writeElems_outside _ _ _ _ _ (.inr (by simp [Buffer.elemAddr]; omega))

/-- A zero spectrum; received zeros, and none received past the prefix; zero symbols with SC-FDM enabled. -/
theorem witness_ZeroInZeroOut :
    (let s := (conf { smallest with cp := 4 }).writeElems .freq (List.replicate 8 czero)
     s.configured ∧ (∀ k < s.N, Cx.isZero (s.elem .freq k) = true) ∧ 0 < 4 ∧ 4 ≤ s.CP) ∧
    (let s := (conf { smallest with cp := 4 }).writeElems .time (List.replicate 12 czero)
     s.configured ∧ 0 < 12 ∧ 12 ≤ 4096 ∧
       ∀ i < 12, s.CP ≤ i → i < s.CP + s.N → Cx.isZero (s.elem .time i) = true) ∧
    (let s := (conf { smallest with scfdmEn := true }).writeElems .sym (List.replicate 8 czero)
     s.configured ∧ s.cfg.scfdmEn = true ∧ ∀ i < s.M, Cx.isZero (s.elem .sym i) = true) := by
  decide +kernel

/-- Two pilots, neither of them zero, with indices between them. -/
theorem witness_ChestEstimatesChannel :
    let s := (conf g16).writeElems .pil [one, one]
    s.configured ∧ s.active.simple = false ∧ 0 < s.P ∧
      (∀ j < s.P, Fp.eq (Cx.abs2 (s.elem .pil j)) 0 = false) ∧
      0 + 1 < s.P ∧ s.grid.pilotIndex 0 < 6 ∧ 6 < s.grid.pilotIndex 1 := by decide +kernel

/-- One pilot; a NaN, and an ordinary argument of the logarithm (the value just above 1). -/
theorem witness_ChestMeasuresSnr :
    (let s := (conf g8).writeElems .pil [one]
     s.configured ∧ s.active.simple = false ∧ 0 < s.P ∧
       ∀ j < s.P, Fp.eq (Cx.abs2 (s.elem .pil j)) 0 = false) ∧
    Fp.isNaN Fp.qnan = true ∧ Fp.isFinite 0x3FF0000000000001 = true ∧
      Fp.lt 0 0x3FF0000000000001 = true ∧ (0x3FF0000000000001 : F64) ≠ Fp.one := by decide +kernel

/-- An index with a zero denominator beside one without. -/
theorem witness_EqualizeDivides :
    let s := (conf smallest).writeElems .chan [⟨0xBEB0C6F7A0B5ED8D, 0⟩, one]
    s.configured ∧
      Fp.eq (Cx.abs2 ⟨Fp.add (s.elem .chan 0).re s.eps, (s.elem .chan 0).im⟩) 0 = true ∧
      Fp.eq (Cx.abs2 ⟨Fp.add (s.elem .chan 1).re s.eps, (s.elem .chan 1).im⟩) 0 = false := by
  decide +kernel

/-- No bits, and the most bits, in 64-QAM. -/
theorem witness_QamMapWritesPoints :
    (conf { g16 with mod := 2 }).configured ∧
      12288 ≤ (conf { g16 with mod := 2 }).bps * 2048 ∧
      12288 % (conf { g16 with mod := 2 }).bps = 0 ∧ 0 % (conf { g16 with mod := 2 }).bps = 0 := by
  decide +kernel

theorem witness_QamDemapWritesBits : (conf g16).configured ∧ 2048 ≤ 2048 ∧ 0 ≤ 2048 :=
  ⟨witness_g16_configured, by decide⟩

theorem witness_QamDetectWritesNearest : (conf g16).status.cfgValid = true ∧ 2048 ≤ 2048 := by decide

theorem witness_DecideOfPoint : [true, false, true, true, false, true].length =
    2 * Modulation.qam64.axisBits ∧ [true, false].length = 2 * Modulation.qpsk.axisBits := by decide

theorem witness_DemapAfterMapRestoresBits :
    (conf g16).configured ∧ 4 ≤ (conf g16).bps * 2048 ∧ 4 % (conf g16).bps = 0 ∧
      ∃ t u, exec (.qamMap 4) (conf g16) = .next t ∧
        exec (.qamDemap (4 / (conf g16).bps)) t = .next u :=
  ⟨witness_g16_configured, by decide, by decide, _, _, rfl, rfl⟩

/-- The boundary 0, and the largest finite value; -0.0; an infinity; a NaN. -/
theorem witness_DecisionIsNearest :
    Fp.isFinite 0 = true ∧ Fp.isFinite 0x7FEFFFFFFFFFFFFF = true ∧ Fp.isZero Fp.signBit = true ∧
      Fp.isInf Fp.negInf = true ∧ Fp.isNaN Fp.qnan = true := by decide

theorem witness_CoordinatesAreNearest : Fp.isFinite 0x3FE6A09E667F3BCC = true := by decide

/-- A tie, and the two sides of the overflow threshold. -/
theorem witness_RoundingIsToNearestEven :
    0 < 2 ∧ Fp.isFinite (Fp.round false 3 2) = true ∧
      Fp.isFinite (Fp.round false ((2 ^ 54 - 1) * 2 ^ 2044) 1) = false ∧
      Fp.isFinite (Fp.round true ((2 ^ 54 - 1) * 2 ^ 2044 - 1) 1) = true := by decide +kernel

/-- The edges of the holes in the address map, and an unlisted register offset. -/
theorem witness_UnmappedAccessSetsBusErr :
    (0x0006C : Addr).toNat % 4 = 0 ∧
      (0x0A0 ≤ (0x000A0 : Addr).toNat ∧ (0x000A0 : Addr).toNat % 4 = 0) ∧
      ((0x01FFC : Addr).toNat < 0x02000 ∧ (0x01FFC : Addr).toNat % 4 = 0) ∧
      (0x02600 ≤ (0x02600 : Addr).toNat ∧ (0x03FFC : Addr).toNat < 0x04000) ∧
      (0x28000 ≤ (0x28000 : Addr).toNat ∧ (0x2FFFC : Addr).toNat < 0x30000) := by decide

theorem witness_MisalignedAccessSetsBusErr :
    (0x00001 : Addr).toNat % 4 ≠ 0 ∧ (0x3FFFF : Addr).toNat % 4 ≠ 0 := by decide

/-- The first word of BITS and the last word of TIME. -/
theorem witness_BufferWordReadsBack :
    (conf g16).engine = .idle ∧ (0x02000 : Addr).toNat % 4 = 0 ∧ inBuffer (0x02000 : Addr).toNat ∧
      (0x3FFFC : Addr).toNat % 4 = 0 ∧ inBuffer (0x3FFFC : Addr).toNat := by decide

/-- The last element of PRX and of TIME. -/
theorem witness_ElementIsFourWords :
    (conf g16).engine = .idle ∧ Buffer.prx ≠ .bits ∧ 16 * 511 + 16 ≤ Buffer.prx.size ∧
      16 * 4095 + 16 ≤ Buffer.time.size := by decide

theorem witness_StreamBitInWord : 12287 < 12288 ∧ (conf g16).engine = .idle := by decide

theorem witness_CmdWriteAcceptsOrDrops :
    State.reset.engine = .idle ∧ (pending 0 State.reset).engine = .pending 0 ∧
      ∀ i, decode 0xFF000000 ≠ .ok i :=
  ⟨rfl, rfl, fun i h => by
    rw [show decode 0xFF000000 = .error (.illegalOpcode 0xFF) from by decide] at h
    cases h⟩

/-- One address of each row of the table. -/
theorem witness_PendingAccessTable :
    (pending 0 (conf g16)).engine = .pending 0 ∧
      (0x00034 : Addr).toNat = Reg.gridInfo.offset ∧ (0x00034 : Addr).toNat % 4 = 0 ∧
      (0x80000000 : Word).getLsbD 31 = true ∧ (1 : Word).getLsbD 31 = false ∧
      (0x00020 : Addr).toNat % 4 = 0 ∧
      (0x070 ≤ (0x0009C : Addr).toNat ∧ (0x0009C : Addr).toNat ≤ 0x09C) ∧
      (inBuffer (0x27FFC : Addr).toNat ∧ (0x27FFC : Addr).toNat % 4 = 0) := by decide

theorem witness_PendingOperandsFrozen :
    (pending 0 (conf g16)).engine = .pending 0 ∧
      ¬((0x00008 : Addr) = 0x00008 ∧ (1 : Word).getLsbD 31 = true) := by decide

theorem witness_RegistersReadBack :
    (conf g16).engine = .idle ∧ (1 : Word).getLsbD 31 = false ∧ (0x00064 : Addr).toNat % 4 = 0 ∧
      0x040 ≤ (0x00064 : Addr).toNat ∧ (0x00064 : Addr).toNat ≤ 0x064 ∧
      (0x0009C : Addr).toNat = Reg.snrNoiseHi.offset := by decide

/-- A soft reset while idle, and while a command that writes FREQ is pending, seen from outside FREQ. -/
theorem witness_SoftResetKeepsOtherBuffers :
    (0x80000000 : Word).getLsbD 31 = true ∧ (conf g16).engine = .idle ∧
      (pending 0x20000009 (conf g16)).engine = .pending 0x20000009 ∧
      ∀ b, writtenBuffer (opcField 0x20000009) = some b → b.holds 0x18000 = false :=
  ⟨by decide, rfl, rfl, fun b h => by
    rw [show writtenBuffer (opcField 0x20000009) = some .freq from by decide] at h
    cases h
    decide⟩

theorem witness_HardResetValues :
    Reg.status ≠ .id ∧ Reg.status ≠ .version ∧ Reg.status ≠ .epsLo ∧ Reg.status ≠ .epsHi := by decide

theorem witness_CommandsIgnoreFlags :
    let st := { (conf g16).status with err := true, busErr := true, errCode := .cfgCp }
    st.cfgValid = (conf g16).status.cfgValid ∧ (∃ t, exec .chest (conf g16) = .next t) ∧
      ∃ t', exec .chest { conf g16 with status := st, irqEn := .reset, errInfo := 7 } = .next t' :=
  ⟨rfl, ⟨_, rfl⟩, ⟨_, rfl⟩⟩

theorem witness_ShadowDoesNotMatter :
    Instr.equalize ≠ .config ∧ ∃ t, exec .equalize (conf g16) = .next t :=
  ⟨by decide, _, rfl⟩

end Sys2Proof.Tests
end

section
/-! PROOF. A zero input of a transform gives a zero output (00_scope R27 (b)): what IFFT_CP, CP_FFT, PRECODE
and DECODE answer when their checks pass, and the zeros they then store. -/

namespace Sys2Proof.Machine

/-! ### The transforming commands when their checks pass -/

/-- IFFT_CP on a configured block (43_ofdm R240). -/
theorem exec_ifftCp_of_valid {s : State} (hv : s.status.cfgValid = true) :
    exec .ifftCp s = .next
      ((s.writeElems .time (withPrefix s.N s.CP (xform .inv s.N (s.elems .freq s.N)))).complete
        (Instr.opcode .ifftCp) (s.N + s.CP)) := by
  simp [exec, execIfftCp, hv]

/-- CP_FFT of some samples within capacity: FREQ and RX_PAD, then the completion (43_ofdm R241). -/
theorem exec_cpFft_of_valid {s : State} {cnt : Nat} (hv : s.status.cfgValid = true) (h0 : 0 < cnt)
    (hc : cnt ≤ Config.timeCap) :
    exec (.cpFft cnt) s = .next (State.complete
      { s.writeElems .freq (xform .fwd s.N ((List.range s.N).map (s.received cnt))) with
        results := { s.results with rxPad := BitVec.ofNat 13 (s.N + s.CP - cnt) } }
      (Instr.opcode (.cpFft cnt)) s.N) := by
  simp [exec, execCpFft, hv, h0.ne', not_lt.2 hc]

/-- The shared rule of PRECODE and DECODE with SC-FDM enabled and a count of M symbols within capacity
(41_precoder R200, R201). -/
theorem precoder_of_enabled {s : State} (dir : Dir) (op : BitVec 8) (hv : s.status.cfgValid = true)
    (he : s.cfg.scfdmEn = true) (hc : s.M ≤ Config.symCap) :
    precoder dir op s.M s =
      (s.writeElems .sym (xform dir s.M (s.elems .sym s.M))).complete op s.M := by
  simp [precoder, hv, he, not_lt.2 hc]

/-- DATA_COUNT of a legal configuration is within SYM (00_scope R10). -/
theorem M_le_symCap {s : State} (h : s.active.legal) : s.M ≤ Config.symCap := by
  have hle := count_le ⟨s.active.n.toNat, s.active.nc.toNat⟩ .data
  rw [← (legal_counts h).1] at hle
  exact hle.trans (legal_ranges h).2.1

/-- Completion changes no element (60_exceptions R310). -/
@[simp] theorem complete_elem (s : State) (op : BitVec 8) (n : Nat) (b : Buffer) (i : Nat) :
    (s.complete op n).elem b i = s.elem b i := elem_congr rfl rfl b i

/-! ### Zeros through a transform and a store -/

/-- `CZERO` is a zero. -/
theorem czero_isZero : Cx.isZero czero = true := by decide

/-- Every output of XFORM on an all-zero input is a zero (00_scope R27 (b)). -/
theorem isZero_of_mem_xform {dir : Dir} {n : Nat} {x : List Cplx} (hl : x.length = n)
    (hx : ∀ z ∈ x, Cx.isZero z = true) : ∀ z ∈ xform dir n x, Cx.isZero z = true :=
  List.all_eq_true.1 ((xform_meets dir n x).zero hl (List.all_eq_true.2 hx))

/-- A store of zeros reads back as zeros. -/
theorem elem_writeElems_isZero (s : State) (b : Buffer) {zs : List Cplx}
    (hz : ∀ z ∈ zs, Cx.isZero z = true) {i : Nat} (hi : i < zs.length) :
    Cx.isZero ((s.writeElems b zs).elem b i) = true := by
  rw [elem_writeElems s b zs i hi, List.getD_eq_getElem _ _ hi]
  exact hz _ (List.getElem_mem hi)

/-- A store of the transform of an all-zero input reads back as zeros (00_scope R27 (b)). -/
theorem elem_writeElems_xform_isZero (s : State) (b : Buffer) (dir : Dir) {n : Nat} {x : List Cplx}
    (hl : x.length = n) (hx : ∀ z ∈ x, Cx.isZero z = true) {i : Nat} (hi : i < n) :
    Cx.isZero ((s.writeElems b (xform dir n x)).elem b i) = true :=
  elem_writeElems_isZero s b (isZero_of_mem_xform hl hx) (by rwa [xform_length])

theorem elems_length (s : State) (b : Buffer) (n : Nat) : (s.elems b n).length = n := by
  simp [State.elems]

/-- The elements `BUF[0..n)` are all zeros when each of them is. -/
theorem isZero_of_mem_elems {s : State} {b : Buffer} {n : Nat}
    (h : ∀ i < n, Cx.isZero (s.elem b i) = true) : ∀ z ∈ s.elems b n, Cx.isZero z = true := by
  simpa [State.elems] using h

/-- A symbol of `n` samples gets `cp` more (43_ofdm R240). -/
theorem withPrefix_length {n cp : Nat} {x : List Cplx} (hl : x.length = n) (hcp : cp ≤ n) :
    (withPrefix n cp x).length = n + cp := by
  simp [withPrefix, hl]; omega

/-- The added samples are samples of the symbol too (43_ofdm R240). -/
theorem mem_of_mem_withPrefix {n cp : Nat} {x : List Cplx} {z : Cplx} (h : z ∈ withPrefix n cp x) :
    z ∈ x :=
  (List.mem_append.1 h).elim List.mem_of_mem_drop id

/-! ### The four commands -/

/-- IFFT_CP of a zero spectrum (43_ofdm R240). -/
theorem ifftCp_zero {s : State} (hs : s.configured)
    (hz : ∀ k < s.N, Cx.isZero (s.elem .freq k) = true) :
    ∃ t, exec .ifftCp s = .next t ∧ ∀ i < s.N + s.CP, Cx.isZero (t.elem .time i) = true := by
  obtain ⟨hv, hlegal⟩ := hs
  have hcp : s.CP ≤ s.N := (legal_ranges hlegal).2.2.2.2.2
  refine ⟨_, exec_ifftCp_of_valid hv, fun i hi => ?_⟩
  rw [complete_elem]
  refine elem_writeElems_isZero s .time (fun z hmem => ?_)
    (by rwa [withPrefix_length (xform_length _ _ _) hcp])
  exact isZero_of_mem_xform (elems_length s .freq s.N) (isZero_of_mem_elems hz) z
    (mem_of_mem_withPrefix hmem)

/-- CP_FFT when every sample it transforms that was received is a zero (43_ofdm R241). -/
theorem cpFft_zero {s : State} (hv : s.status.cfgValid = true) {cnt : Nat} (h0 : 0 < cnt)
    (hc : cnt ≤ Config.timeCap)
    (hz : ∀ i, s.CP ≤ i → i < cnt → i < s.CP + s.N → Cx.isZero (s.elem .time i) = true) :
    ∃ t, exec (.cpFft cnt) s = .next t ∧ ∀ k < s.N, Cx.isZero (t.elem .freq k) = true := by
  have hrec : ∀ n < s.N, Cx.isZero (s.received cnt n) = true := fun n hn => by
    unfold State.received
    split
    · next hlt => exact hz _ (by omega) hlt (by omega)
    · exact czero_isZero
  refine ⟨_, exec_cpFft_of_valid hv h0 hc, fun k hk => ?_⟩
  exact elem_writeElems_xform_isZero s .freq .fwd (by simp) (by simpa using hrec) hk

/-- The shared rule of PRECODE and DECODE on zero symbols with SC-FDM enabled (41_precoder R200, R201). -/
theorem precoder_zero {s : State} (dir : Dir) (op : BitVec 8) (hs : s.configured)
    (he : s.cfg.scfdmEn = true) (hz : ∀ i < s.M, Cx.isZero (s.elem .sym i) = true) :
    ∀ i < s.M, Cx.isZero ((precoder dir op s.M s).elem .sym i) = true := by
  intro i hi
  rw [precoder_of_enabled dir op hs.1 he (M_le_symCap hs.2), complete_elem]
  exact elem_writeElems_xform_isZero s .sym dir (elems_length s .sym s.M) (isZero_of_mem_elems hz) hi

/-- Settles O34: each command's outcome, and R27 (b) of the transform that it stores. -/
theorem zeroInZeroOut : Obligations.ZeroInZeroOut := by
  intro s hs
  refine ⟨ifftCp_zero hs, fun cnt h0 hc => cpFft_zero hs.1 h0 hc, fun cnt h0 hcp => ?_,
    fun he hz => ⟨⟨_, rfl, precoder_zero .fwd _ hs he hz⟩, ⟨_, rfl, precoder_zero .inv _ hs he hz⟩⟩⟩
  -- of at most CP received samples none is transformed
  have hcap : s.CP ≤ Config.timeCap := by
    have hn : s.N ≤ 2048 := (legal_ranges hs.2).2.1
    have hle : s.CP ≤ s.N := (legal_ranges hs.2).2.2.2.2.2
    exact (hle.trans hn).trans (by decide)
  exact cpFft_zero hs.1 h0 (hcp.trans hcap) fun i h1 h2 _ => absurd h2 (by omega)

end Sys2Proof.Machine
end

section
/-! PROOF. The rounding of the model's arithmetic is roundTiesToEven of IEEE 754 (00_scope R18): the nearest
integer to a quotient, the place of the significand's last bit, the fields of the result, and the distance
to every finite binary64. -/

namespace Sys2Proof.Machine

/-! ### The nearest integer to a quotient -/

/-- The nearest integer is the quotient, or the one above it, by the remainder. -/
theorem Fp.roundTiesToEven_cases (num : Nat) {den : Nat} (hd : 0 < den) :
    ∃ r, (2 * r = den → Fp.roundTiesToEven num den % 2 = 0) ∧
      (Fp.roundTiesToEven num den * den + r = num ∧ 2 * r ≤ den ∨
        Fp.roundTiesToEven num den * den = num + r ∧ 2 * r ≤ den) := by
  have hdm : num / den * den + num % den = num := Nat.div_add_mod' num den
  have hlt : num % den < den := Nat.mod_lt _ hd
  rw [Fp.roundTiesToEven]
  split_ifs with h1 h2
  · exact ⟨num % den, by omega, .inl ⟨hdm, h1.le⟩⟩
  · exact ⟨den - num % den, by omega, .inr ⟨by rw [Nat.succ_mul]; omega, by omega⟩⟩
  · refine ⟨num % den, by omega, ?_⟩
    rcases Nat.mod_two_eq_zero_or_one (num / den) with hp | hp <;> rw [hp]
    · exact .inl ⟨hdm, by omega⟩
    · exact .inr ⟨by rw [Nat.succ_mul]; omega, by omega⟩

/-- The nearest integer is at most half a unit away. -/
theorem Fp.two_mul_dist_roundTiesToEven_le (num : Nat) {den : Nat} (hd : 0 < den) :
    2 * |(Fp.roundTiesToEven num den * den : ℤ) - num| ≤ den := by
  obtain ⟨r, -, h⟩ := Fp.roundTiesToEven_cases num hd
  rw [Int.abs_eq_natAbs]
  omega

/-- At exactly half a unit the even integer is taken. -/
theorem Fp.roundTiesToEven_even_of_tie {num den : Nat} (hd : 0 < den)
    (h : 2 * |(Fp.roundTiesToEven num den * den : ℤ) - num| = den) :
    Fp.roundTiesToEven num den % 2 = 0 := by
  obtain ⟨r, htie, hr⟩ := Fp.roundTiesToEven_cases num hd
  rw [Int.abs_eq_natAbs] at h
  exact htie (by omega)

/-- A lower bound of the quotient is one of the nearest integer. -/
theorem Fp.le_roundTiesToEven {num den t : Nat} (hd : 0 < den) (h : t * den ≤ num) :
    t ≤ Fp.roundTiesToEven num den := by
  by_contra hlt
  have hmul := Nat.mul_le_mul_right den (Nat.succ_le_of_lt (not_le.1 hlt))
  have hdist := Fp.two_mul_dist_roundTiesToEven_le num hd
  rw [Nat.succ_mul] at hmul
  rw [Int.abs_eq_natAbs] at hdist
  omega

/-- An upper bound of the quotient is one of the nearest integer. -/
theorem Fp.roundTiesToEven_le {num den t : Nat} (hd : 0 < den) (h : num ≤ t * den) :
    Fp.roundTiesToEven num den ≤ t := by
  by_contra hlt
  have hmul := Nat.mul_le_mul_right den (Nat.succ_le_of_lt (not_le.1 hlt))
  have hdist := Fp.two_mul_dist_roundTiesToEven_le num hd
  rw [Nat.succ_mul] at hmul
  rw [Int.abs_eq_natAbs] at hdist
  omega

/-- Another integer than the nearest is no nearer, and as near only at a tie. -/
theorem Fp.dist_roundTiesToEven_of_ne (num : Nat) {den : Nat} (hd : 0 < den) {t : ℤ}
    (hne : t ≠ Fp.roundTiesToEven num den) :
    (den : ℤ) ≤ |(Fp.roundTiesToEven num den * den : ℤ) - num| + |t * den - num| := by
  have hone : 1 ≤ |(Fp.roundTiesToEven num den : ℤ) - t| :=
    Int.one_le_abs (sub_ne_zero.2 hne.symm)
  calc (den : ℤ) ≤ |(Fp.roundTiesToEven num den : ℤ) - t| * den := le_mul_of_one_le_left (by omega) hone
    _ = |((Fp.roundTiesToEven num den * den : ℤ) - num) - (t * den - num)| := by
        rw [sub_sub_sub_cancel_right, ← sub_mul, abs_mul, Nat.abs_cast]
    _ ≤ _ := abs_sub _ _

/-- No integer is nearer, and where another one is as near the even one is taken. -/
theorem Fp.roundTiesToEven_nearest (num : Nat) {den : Nat} (hd : 0 < den) (t : ℤ) :
    |(Fp.roundTiesToEven num den * den : ℤ) - num| ≤ |t * den - num| ∧
      (|(Fp.roundTiesToEven num den * den : ℤ) - num| = |t * den - num| →
        t ≠ Fp.roundTiesToEven num den → Fp.roundTiesToEven num den % 2 = 0) := by
  by_cases ht : t = Fp.roundTiesToEven num den
  · rw [ht]
    exact ⟨le_rfl, fun _ hne => absurd rfl hne⟩
  · have hhalf := Fp.two_mul_dist_roundTiesToEven_le num hd
    have hsum := Fp.dist_roundTiesToEven_of_ne num hd ht
    exact ⟨by linarith, fun heq _ => Fp.roundTiesToEven_even_of_tie hd (by linarith)⟩

/-! ### The significand and its last place -/

/-- The significand of `num / den` units: the nearest integer in units of the last place. -/
def Fp.significand (num den : Nat) : Nat :=
  Fp.roundTiesToEven num (den * 2 ^ Fp.scale num den)

/-- The value is below the power of two above the significand. -/
theorem Fp.lt_of_scale (num : Nat) {den : Nat} (hd : 0 < den) :
    num < 2 ^ 53 * (den * 2 ^ Fp.scale num den) := by
  have hlog : num / den < 2 ^ (Nat.log2 (num / den) + 1) := Nat.lt_log2_self
  have hexp : Nat.log2 (num / den) + 1 ≤ 53 + Fp.scale num den := by unfold Fp.scale; omega
  calc num < 2 ^ (53 + Fp.scale num den) * den :=
        (Nat.div_lt_iff_lt_mul hd).1 (hlog.trans_le (Nat.pow_le_pow_right (by omega) hexp))
    _ = 2 ^ 53 * (den * 2 ^ Fp.scale num den) := by rw [pow_add]; ring

/-- A value with a last place above one unit fills the 53 bits of the significand. -/
theorem Fp.le_of_scale {num den : Nat} (hd : 0 < den) (hk : Fp.scale num den ≠ 0) :
    2 ^ 52 * (den * 2 ^ Fp.scale num den) ≤ num := by
  have hexp : 52 + Fp.scale num den = Nat.log2 (num / den) := by unfold Fp.scale at hk ⊢; omega
  have hne : num / den ≠ 0 := fun h => hk (by simp [Fp.scale, h])
  calc 2 ^ 52 * (den * 2 ^ Fp.scale num den) = 2 ^ (52 + Fp.scale num den) * den := by
        rw [pow_add]; ring
    _ ≤ num := (Nat.le_div_iff_mul_le hd).1 (hexp ▸ Nat.log2_self_le hne)

/-- One last place of the value, over its denominator, is positive. -/
theorem Fp.lastPlace_pos (num : Nat) {den : Nat} (hd : 0 < den) :
    0 < den * 2 ^ Fp.scale num den := by positivity

theorem Fp.significand_le (num : Nat) {den : Nat} (hd : 0 < den) : Fp.significand num den ≤ 2 ^ 53 :=
  Fp.roundTiesToEven_le (Fp.lastPlace_pos num hd) (Fp.lt_of_scale num hd).le

theorem Fp.le_significand {num den : Nat} (hd : 0 < den) (hk : Fp.scale num den ≠ 0) :
    2 ^ 52 ≤ Fp.significand num den :=
  Fp.le_roundTiesToEven (Fp.lastPlace_pos num hd) (Fp.le_of_scale hd hk)

/-- The significand is at most half a last place away from the value. -/
theorem Fp.two_mul_dist_significand_le (num : Nat) {den : Nat} (hd : 0 < den) :
    2 * |(Fp.significand num den : ℤ) * (den * 2 ^ Fp.scale num den : Nat) - num| ≤
      (den * 2 ^ Fp.scale num den : Nat) :=
  Fp.two_mul_dist_roundTiesToEven_le num (Fp.lastPlace_pos num hd)

/-- At exactly half a last place the significand is even. -/
theorem Fp.significand_even_of_tie {num den : Nat} (hd : 0 < den)
    (h : 2 * |(Fp.significand num den : ℤ) * (den * 2 ^ Fp.scale num den : Nat) - num| =
      (den * 2 ^ Fp.scale num den : Nat)) : Fp.significand num den % 2 = 0 :=
  Fp.roundTiesToEven_even_of_tie (Fp.lastPlace_pos num hd) h

/-- No whole number of last places is nearer, and where another one is as near the significand is even. -/
theorem Fp.significand_nearest_multiple (num : Nat) {den : Nat} (hd : 0 < den) (t : ℤ) :
    |(Fp.significand num den : ℤ) * (den * 2 ^ Fp.scale num den : Nat) - num| ≤
        |t * (den * 2 ^ Fp.scale num den : Nat) - num| ∧
      (|(Fp.significand num den : ℤ) * (den * 2 ^ Fp.scale num den : Nat) - num| =
          |t * (den * 2 ^ Fp.scale num den : Nat) - num| →
        t ≠ Fp.significand num den → Fp.significand num den % 2 = 0) :=
  Fp.roundTiesToEven_nearest num (Fp.lastPlace_pos num hd) t

/-- A later last place is at least twice an earlier one. -/
theorem Fp.two_mul_lastPlace_le (den : Nat) {j k : Nat} (h : j < k) :
    2 * (den * 2 ^ j) ≤ den * 2 ^ k := by
  rw [mul_left_comm, ← pow_succ']
  exact Nat.mul_le_mul_left den (Nat.pow_le_pow_right (by omega) h)

/-! ### The fields of a rounded value -/

theorem Fp.roundMag_eq (num den : Nat) :
    Fp.roundMag num den =
      min (Fp.scale num den * 2 ^ 52 + Fp.significand num den) (2047 * 2 ^ 52) := rfl

/-- A rounded value, by its fields. -/
theorem Fp.round_eq_ofFields (neg : Bool) (num den : Nat) :
    Fp.round neg num den =
      Fp.ofFields neg (Fp.roundMag num den / 2 ^ 52) (Fp.roundMag num den % 2 ^ 52) := by
  rw [Fp.round, Fp.ofFields, Nat.add_assoc, Nat.div_add_mod']

/-- The exponent field of a rounded value fits. -/
theorem Fp.roundMag_div_lt (num den : Nat) : Fp.roundMag num den / 2 ^ 52 < 2 ^ 11 := by
  have hle : Fp.roundMag num den ≤ 2047 * 2 ^ 52 := min_le_right _ _
  omega

@[simp] theorem Fp.sign_round (neg : Bool) (num den : Nat) : Fp.sign (Fp.round neg num den) = neg := by
  rw [Fp.round_eq_ofFields]
  exact Fp.sign_ofFields neg (Fp.roundMag_div_lt num den) (Nat.mod_lt _ (by positivity))

theorem Fp.expo_round (neg : Bool) (num den : Nat) :
    Fp.expo (Fp.round neg num den) = Fp.roundMag num den / 2 ^ 52 := by
  rw [Fp.round_eq_ofFields]
  exact Fp.expo_ofFields neg (Fp.roundMag_div_lt num den) (Nat.mod_lt _ (by positivity))

theorem Fp.frac_round (neg : Bool) (num den : Nat) :
    Fp.frac (Fp.round neg num den) = Fp.roundMag num den % 2 ^ 52 := by
  rw [Fp.round_eq_ofFields]
  exact Fp.frac_ofFields neg (Fp.roundMag_div_lt num den) (Nat.mod_lt _ (by positivity))

/-- A rounded value is finite when exponent and significand stay below the infinity's pattern. -/
theorem Fp.isFinite_round_iff_pattern (neg : Bool) (num den : Nat) :
    Fp.isFinite (Fp.round neg num den) = true ↔
      Fp.scale num den * 2 ^ 52 + Fp.significand num den < 2047 * 2 ^ 52 := by
  rw [Fp.isFinite, Fp.expo_round, Fp.roundMag_eq, bne_iff_ne]
  omega

/-- The magnitude pattern of a finite rounded value. -/
theorem Fp.roundMag_of_isFinite {neg : Bool} {num den : Nat}
    (hf : Fp.isFinite (Fp.round neg num den) = true) :
    Fp.roundMag num den = Fp.scale num den * 2 ^ 52 + Fp.significand num den :=
  min_eq_left ((Fp.isFinite_round_iff_pattern neg num den).1 hf).le

/-- The fraction field of a finite rounded value is even when its significand is. -/
theorem Fp.frac_round_even {neg : Bool} {num den : Nat}
    (hf : Fp.isFinite (Fp.round neg num den) = true) (he : Fp.significand num den % 2 = 0) :
    Fp.frac (Fp.round neg num den) % 2 = 0 := by
  rw [Fp.frac_round, Fp.roundMag_of_isFinite hf]
  omega

/-- The magnitude of a finite rounded value: its significand in units of its last place. A significand
carried to `2 ^ 53` has moved into the exponent field. -/
theorem Fp.mag_round {neg : Bool} {num den : Nat} (hd : 0 < den)
    (hf : Fp.isFinite (Fp.round neg num den) = true) :
    Fp.mag (Fp.round neg num den) = Fp.significand num den * 2 ^ Fp.scale num den := by
  have hle := Fp.significand_le num hd
  have hge := Fp.le_significand (num := num) hd
  rw [Fp.mag, Fp.expo_round, Fp.frac_round, Fp.roundMag_of_isFinite hf]
  generalize Fp.significand num den = R at hle hge ⊢
  generalize Fp.scale num den = k at hge ⊢
  rcases lt_or_ge R (2 ^ 52) with hsub | hnorm
  · -- a subnormal result
    obtain rfl : k = 0 := by by_contra hk; exact absurd (hge hk) (not_le.2 hsub)
    rw [zero_mul, zero_add, Nat.div_eq_of_lt hsub, if_pos rfl, Nat.mod_eq_of_lt hsub, pow_zero, mul_one]
  rcases hle.lt_or_eq with hlt | rfl
  · -- no carry
    have hexp : (k * 2 ^ 52 + R) / 2 ^ 52 = k + 1 := by omega
    have hfrac : 2 ^ 52 + (k * 2 ^ 52 + R) % 2 ^ 52 = R := by omega
    rw [hexp, if_neg (by omega), hfrac, Nat.add_sub_cancel]
  · -- a carry
    have hexp : (k * 2 ^ 52 + 2 ^ 53) / 2 ^ 52 = k + 2 := by omega
    have hfrac : (k * 2 ^ 52 + 2 ^ 53) % 2 ^ 52 = 0 := by omega
    rw [hexp, if_neg (by omega), hfrac, Nat.add_zero, show k + 2 - 1 = k + 1 by omega,
      pow_succ 2 k, pow_succ 2 52]
    ring

/-- The value of a finite rounded result. -/
theorem Fp.units_round {neg : Bool} {num den : Nat} (hd : 0 < den)
    (hf : Fp.isFinite (Fp.round neg num den) = true) :
    Fp.units (Fp.round neg num den) =
      if neg then -((Fp.significand num den * 2 ^ Fp.scale num den : Nat) : ℤ)
      else ((Fp.significand num den * 2 ^ Fp.scale num den : Nat) : ℤ) := by
  rw [Fp.units, Fp.sign_round, Fp.mag_round hd hf]

/-! ### Overflow -/

/-- The pattern of exponent and significand stays below exponent field `e + 2` exactly when the value is
below the first value there by more than half a last place. -/
theorem Fp.pattern_lt_iff (num : Nat) {den : Nat} (hd : 0 < den) (e : Nat) :
    Fp.scale num den * 2 ^ 52 + Fp.significand num den < (e + 2) * 2 ^ 52 ↔
      2 * num < (2 ^ 54 - 1) * 2 ^ e * den := by
  rw [mul_assoc (2 ^ 54 - 1), mul_comm _ den]
  have hlt := Fp.lt_of_scale num hd
  have hge := Fp.le_of_scale (num := num) hd
  have hsle := Fp.significand_le num hd
  have hsge := Fp.le_significand (num := num) hd
  have hhalf := Fp.two_mul_dist_significand_le num hd
  have htie := Fp.significand_even_of_tie (num := num) hd
  have hpos := Fp.lastPlace_pos num hd
  generalize Fp.significand num den = R at *
  generalize Fp.scale num den = k at *
  rcases lt_trichotomy k e with hk | rfl | hk
  · -- the value is below the last binade
    have hpow := Fp.two_mul_lastPlace_le den hk
    omega
  · -- the value is in the last binade: the threshold is a tie, which the odd largest significand loses
    rw [Int.abs_eq_natAbs] at hhalf htie
    generalize den * 2 ^ k = T at *
    rcases hsle.lt_or_eq with hR | rfl
    · have hup : 2 * num ≤ 2 * (R * T) + T := by zify; omega
      have hodd : 2 * num = 2 * (R * T) + T → R % 2 = 0 := fun heq => htie (by zify at heq; omega)
      rcases (Nat.le_sub_one_of_lt hR).lt_or_eq with hR' | hR'
      · have hmul := Nat.mul_le_mul_right T (Nat.succ_le_of_lt hR')
        rw [Nat.succ_mul] at hmul
        omega
      · -- the significand is `2 ^ 53 - 1`, an odd number
        have hlow := lt_of_le_of_ne hup (mt hodd (by omega))
        rw [hR'] at hlow
        omega
    · omega
  · -- the value is above the last binade
    have hpow := Fp.two_mul_lastPlace_le den hk
    have hnum := hge (by omega)
    have hsig := hsge (by omega)
    omega

/-- The result is finite exactly below the largest finite value plus half its last place. -/
theorem Fp.isFinite_round_iff (neg : Bool) (num : Nat) {den : Nat} (hd : 0 < den) :
    Fp.isFinite (Fp.round neg num den) = true ↔ 2 * num < (2 ^ 54 - 1) * 2 ^ 2045 * den :=
  (Fp.isFinite_round_iff_pattern neg num den).trans (Fp.pattern_lt_iff num hd 2045)

/-! ### The distance to the other binary64 values -/

/-- A magnitude is a whole number of last places, whatever the place, or it is below the values that fill a
significand with that last place. -/
theorem Fp.dvd_mag_or_lt (y : F64) (k : Nat) :
    2 ^ k ∣ Fp.mag y ∨ k ≠ 0 ∧ Fp.mag y < 2 ^ 52 * 2 ^ k := by
  have hf := Fp.frac_lt y
  rw [Fp.mag]
  split_ifs with he
  · rcases eq_or_ne k 0 with rfl | hk
    · exact .inl (one_dvd _)
    · exact .inr ⟨hk, hf.trans_le (Nat.le_mul_of_pos_right _ (by positivity))⟩
  · rcases le_or_gt k (Fp.expo y - 1) with hk | hk
    · exact .inl (Dvd.dvd.mul_left (pow_dvd_pow 2 hk) _)
    · refine .inr ⟨by omega, ?_⟩
      calc (2 ^ 52 + Fp.frac y) * 2 ^ (Fp.expo y - 1) < 2 ^ 53 * 2 ^ (Fp.expo y - 1) :=
            Nat.mul_lt_mul_of_pos_right (by omega) (by positivity)
        _ = 2 ^ 52 * 2 ^ (Fp.expo y - 1 + 1) := by ring
        _ ≤ 2 ^ 52 * 2 ^ k := Nat.mul_le_mul_left _ (Nat.pow_le_pow_right (by omega) hk)

/-- The same of a signed value, of either sign. -/
theorem Fp.dvd_units_or_lt (y : F64) (k : Nat) :
    ((2 ^ k : ℤ) ∣ Fp.units y ∨ k ≠ 0 ∧ Fp.units y < 2 ^ 52 * 2 ^ k) ∧
      ((2 ^ k : ℤ) ∣ -Fp.units y ∨ k ≠ 0 ∧ -Fp.units y < 2 ^ 52 * 2 ^ k) := by
  have hcase : (2 ^ k : ℤ) ∣ Fp.mag y ∨ k ≠ 0 ∧ (Fp.mag y : ℤ) < 2 ^ 52 * 2 ^ k := by
    exact_mod_cast Fp.dvd_mag_or_lt y k
  have hpos : (0 : ℤ) ≤ Fp.mag y := Int.natCast_nonneg _
  rw [Fp.units]
  split <;> simp only [Int.dvd_neg, neg_neg] <;> omega

/-- The rounded magnitude is nearest to `num / den` among the values that are whole numbers of its last
place or below its binade, and on a tie its significand is even. -/
theorem Fp.significand_nearest (num : Nat) {den : Nat} (hd : 0 < den) {Y : ℤ}
    (hY : (2 ^ Fp.scale num den : ℤ) ∣ Y ∨
      Fp.scale num den ≠ 0 ∧ Y < 2 ^ 52 * 2 ^ Fp.scale num den) :
    |((Fp.significand num den * 2 ^ Fp.scale num den : Nat) : ℤ) * den - num| ≤ |Y * den - num| ∧
      (|((Fp.significand num den * 2 ^ Fp.scale num den : Nat) : ℤ) * den - num| = |Y * den - num| →
        Y ≠ (Fp.significand num den * 2 ^ Fp.scale num den : Nat) →
        Fp.significand num den % 2 = 0) := by
  have hnear := Fp.significand_nearest_multiple num hd
  have hbinade := Fp.le_of_scale (num := num) hd
  generalize Fp.significand num den = R at *
  generalize Fp.scale num den = k at *
  have hval : ((R * 2 ^ k : Nat) : ℤ) * den = R * (den * 2 ^ k : Nat) := by push_cast; ring
  rw [hval]
  rcases hY with ⟨t, rfl⟩ | ⟨hk, hlt⟩
  · -- a whole number of last places
    rw [show (2 : ℤ) ^ k * t * den = t * (den * 2 ^ k : Nat) by push_cast; ring]
    refine ⟨(hnear t).1, fun heq hne => (hnear t).2 heq fun ht => hne ?_⟩
    rw [ht]; push_cast; ring
  · -- a value below the binade is farther than the first value of the binade
    have hfirst := (hnear (2 ^ 52)).1
    have hbin : (2 : ℤ) ^ 52 * (den * 2 ^ k : Nat) ≤ num := by exact_mod_cast hbinade hk
    have hbelow : Y * den < 2 ^ 52 * (den * 2 ^ k : Nat) := by
      calc Y * den < 2 ^ 52 * 2 ^ k * den := by gcongr
        _ = 2 ^ 52 * (den * 2 ^ k : Nat) := by push_cast; ring
    rw [abs_of_nonpos (by linarith : (2 : ℤ) ^ 52 * (den * 2 ^ k : Nat) - num ≤ 0)] at hfirst
    have hfar : |(R : ℤ) * (den * 2 ^ k : Nat) - num| < |Y * den - num| := by
      rw [abs_of_neg (by linarith : Y * den - num < 0)]
      linarith
    exact ⟨hfar.le, fun heq => absurd heq hfar.ne⟩

/-- Settles O45: the overflow threshold, and for a finite result the distance to each finite binary64, a
negative value by its mirror image. -/
theorem roundingIsToNearestEven : Obligations.RoundingIsToNearestEven := by
  intro neg num den hd
  refine ⟨Fp.isFinite_round_iff neg num hd, fun hf y _ => ?_⟩
  obtain ⟨hpos, hneg⟩ := Fp.dvd_units_or_lt y (Fp.scale num den)
  rw [Fp.units_round hd hf]
  cases neg with
  | false =>
    obtain ⟨hle, htie⟩ := Fp.significand_nearest num hd hpos
    exact ⟨hle, fun heq hne => Fp.frac_round_even hf (htie heq hne)⟩
  | true =>
    obtain ⟨hle, htie⟩ := Fp.significand_nearest num hd hneg
    have hflip (a : ℤ) : |a * den - -(num : ℤ)| = |-a * den - num| := by
      rw [← abs_neg]; congr 1; ring
    simp only [if_true, hflip, neg_neg]
    exact ⟨hle, fun heq hne => Fp.frac_round_even hf (htie heq fun h => hne (by rw [← h, neg_neg]))⟩

end Sys2Proof.Machine
end

section
/-! PROOF. The transform is accurate (00_scope R27): the ideal transforms are unitary, every value in range
has a near binary64, and so every input of ordinary size has an output that meets R27 (a). -/

namespace Sys2Proof.Machine

/-! ### The ideal transforms are unitary (00_scope R23) -/

/-- The root of unity whose powers are the factors of the ideal transform (00_scope R23). -/
noncomputable def Ideal.root (dir : Dir) (n : Nat) : ℂ :=
  Complex.exp (Ideal.sign dir * 2 * Real.pi * Complex.I / n)

theorem Ideal.exp_eq_root_pow (dir : Dir) (n k m : Nat) :
    Complex.exp (Ideal.sign dir * 2 * Real.pi * Complex.I * (k * m) / n) =
      Ideal.root dir n ^ (m * k) := by
  rw [Ideal.root, ← Complex.exp_nat_mul]
  congr 1
  push_cast
  ring

theorem Ideal.root_isPrimitive (dir : Dir) {n : Nat} (hn : n ≠ 0) :
    IsPrimitiveRoot (Ideal.root dir n) n := by
  have hinv := Complex.isPrimitiveRoot_exp n hn
  cases dir with
  | inv => simpa [Ideal.root, Ideal.sign] using hinv
  | fwd => simpa [Ideal.root, Ideal.sign, ← Complex.exp_neg, neg_div] using hinv.inv

theorem Ideal.conj_root (dir : Dir) {n : Nat} (hn : n ≠ 0) :
    (starRingEnd ℂ) (Ideal.root dir n) = (Ideal.root dir n)⁻¹ :=
  (Complex.inv_eq_conj ((Ideal.root_isPrimitive dir hn).norm'_eq_one hn)).symm

/-- The rows of the transform's matrix are orthogonal. -/
theorem Ideal.sum_root_pow (dir : Dir) {n : Nat} (hn : n ≠ 0) {m m' : Nat} (hm : m < n) (hm' : m' < n) :
    ∑ k ∈ Finset.range n,
        Ideal.root dir n ^ (m * k) * (starRingEnd ℂ) (Ideal.root dir n ^ (m' * k)) =
      if m = m' then (n : ℂ) else 0 := by
  have hroot := Ideal.root_isPrimitive dir hn
  set w := Ideal.root dir n with hw
  have hne : w ≠ 0 := Complex.exp_ne_zero _
  have hgeom : ∀ k, w ^ (m * k) * (starRingEnd ℂ) (w ^ (m' * k)) = (w ^ m / w ^ m') ^ k := fun k => by
    rw [map_pow, Ideal.conj_root dir hn, ← hw, pow_mul, pow_mul, ← mul_pow, inv_pow, ← div_eq_mul_inv]
  simp only [hgeom]
  split_ifs with h
  · simp [h, div_self (pow_ne_zero m' hne)]
  · have hone : w ^ m / w ^ m' ≠ 1 := fun h1 =>
      h (hroot.pow_inj hm hm' ((div_eq_one_iff_eq (pow_ne_zero m' hne)).1 h1))
    have hn1 : (w ^ m / w ^ m') ^ n = 1 := by
      rw [div_pow, ← pow_mul, ← pow_mul, mul_comm m, mul_comm m', pow_mul, pow_mul, hroot.pow_eq_one]
      simp
    rw [geom_sum_eq hone, hn1, sub_self, zero_div]

/-- The product of an output of the ideal transform with its conjugate, written out. -/
theorem Ideal.IsDft.mul_conj {dir : Dir} {n : Nat} {x X : Nat → ℂ} (h : Ideal.IsDft dir n x X) (k : Nat) :
    X k * (starRingEnd ℂ) (X k) = ∑ m ∈ Finset.range n, ∑ m' ∈ Finset.range n,
      (1 / n : ℂ) * (x m * (starRingEnd ℂ) (x m')) *
        (Ideal.root dir n ^ (m * k) * (starRingEnd ℂ) (Ideal.root dir n ^ (m' * k))) := by
  have hc : ((1 / Real.sqrt n : ℝ) : ℂ) * ((1 / Real.sqrt n : ℝ) : ℂ) = 1 / n := by
    rw [← Complex.ofReal_mul, div_mul_div_comm, Real.mul_self_sqrt (Nat.cast_nonneg n)]
    simp
  rw [h k, map_mul, map_sum, Complex.conj_ofReal, mul_mul_mul_comm, hc, Finset.sum_mul_sum,
    Finset.mul_sum]
  refine Finset.sum_congr rfl fun m _ => ?_
  rw [Finset.mul_sum]
  refine Finset.sum_congr rfl fun m' _ => ?_
  rw [Ideal.exp_eq_root_pow, Ideal.exp_eq_root_pow, map_mul]
  ring

/-- The ideal transform keeps the 2-norm. -/
theorem Ideal.IsDft.sum_normSq {dir : Dir} {n : Nat} (hn : n ≠ 0) {x X : Nat → ℂ}
    (h : Ideal.IsDft dir n x X) :
    ∑ k ∈ Finset.range n, Complex.normSq (X k) = ∑ m ∈ Finset.range n, Complex.normSq (x m) := by
  apply Complex.ofReal_injective
  simp only [Complex.ofReal_sum, ← Complex.mul_conj, h.mul_conj]
  rw [Finset.sum_comm]
  refine Finset.sum_congr rfl fun m hm => ?_
  calc ∑ k ∈ Finset.range n, ∑ m' ∈ Finset.range n, (1 / n : ℂ) * (x m * (starRingEnd ℂ) (x m')) *
          (Ideal.root dir n ^ (m * k) * (starRingEnd ℂ) (Ideal.root dir n ^ (m' * k)))
      = ∑ m' ∈ Finset.range n, (1 / n : ℂ) * (x m * (starRingEnd ℂ) (x m')) *
          if m = m' then (n : ℂ) else 0 := by
        rw [Finset.sum_comm]
        refine Finset.sum_congr rfl fun m' hm' => ?_
        rw [← Finset.mul_sum, Ideal.sum_root_pow dir hn (Finset.mem_range.1 hm) (Finset.mem_range.1 hm')]
    _ = x m * (starRingEnd ℂ) (x m) := by
        have hn0 : (n : ℂ) ≠ 0 := Nat.cast_ne_zero.2 hn
        simp only [mul_ite, mul_zero, Finset.sum_ite_eq, hm, if_true]
        field_simp

/-! ### The binary64 near a real number -/

/-- Rounding an integer number of units moves it by at most one part in `2 ^ 53`: not at all when it fits
the significand. -/
theorem Fp.units_round_near (m : ℤ)
    (hf : Fp.isFinite (Fp.round (decide (m < 0)) m.natAbs 1) = true) :
    2 ^ 53 * |Fp.units (Fp.round (decide (m < 0)) m.natAbs 1) - m| ≤ |m| := by
  have hhalf := Fp.two_mul_dist_significand_le m.natAbs one_pos
  have hbinade := Fp.le_of_scale (num := m.natAbs) one_pos
  have hdist : |Fp.units (Fp.round (decide (m < 0)) m.natAbs 1) - m| =
      |(Fp.significand m.natAbs 1 : ℤ) * (1 * 2 ^ Fp.scale m.natAbs 1 : Nat) - m.natAbs| := by
    rw [Fp.units_round one_pos hf, one_mul]
    rcases lt_or_ge m 0 with hm | hm
    · rw [if_pos (by simpa using hm), ← abs_neg, Int.ofNat_natAbs_of_nonpos hm.le]
      push_cast
      congr 1
      ring
    · rw [if_neg (by simpa using hm), Int.natAbs_of_nonneg hm, Nat.cast_mul]
  rw [hdist]
  rcases eq_or_ne (Fp.scale m.natAbs 1) 0 with hk | hk
  · rw [hk, Int.abs_eq_natAbs] at hhalf ⊢
    have hpos := abs_nonneg m
    omega
  · have hnum := hbinade hk
    rw [Int.abs_eq_natAbs] at hhalf ⊢
    rw [Int.abs_eq_natAbs]
    omega

/-- Every real number has an integer within a half. -/
theorem exists_int_near (r : ℝ) : ∃ m : ℤ, |r - m| ≤ 1 / 2 := ⟨round r, abs_sub_round r⟩

/-- Every real number up to a bound below overflow has a finite binary64 within half a unit, or within a
small part of it. -/
theorem Fp.exists_near {r : ℝ} {B : Nat} (hr : |r| ≤ B) (hB : 2 * B < (2 ^ 54 - 1) * 2 ^ 2045) :
    ∃ y, Fp.isFinite y = true ∧ ((Fp.units y : ℝ) - r) ^ 2 ≤ 1 / 4 + r ^ 2 / 2 ^ 100 := by
  obtain ⟨m, hround⟩ := exists_int_near r
  obtain ⟨hr1, hr2⟩ := abs_le.1 hr
  obtain ⟨hd1, hd2⟩ := abs_le.1 hround
  have hmB : m.natAbs ≤ B := by
    have h1 : (m : ℝ) < (B + 1 : ℤ) := by push_cast; linarith
    have h2 : (-(B + 1) : ℤ) < (m : ℝ) := by push_cast; linarith
    have h1' := Int.cast_lt.1 h1
    have h2' := Int.cast_lt.1 h2
    omega
  have hf : Fp.isFinite (Fp.round (decide (m < 0)) m.natAbs 1) = true := by
    rw [Fp.isFinite_round_iff _ _ one_pos, mul_one]
    exact (Nat.mul_le_mul_left 2 hmB).trans_lt hB
  have hnear := Fp.units_round_near m hf
  refine ⟨_, hf, ?_⟩
  generalize Fp.units (Fp.round (decide (m < 0)) m.natAbs 1) = u at hnear ⊢
  rcases eq_or_ne u m with rfl | hne
  · -- an exact rounding: only the step from the real number to the integer counts
    have hsq : ((u : ℝ) - r) ^ 2 ≤ (1 / 2) ^ 2 := by
      rw [← sq_abs, abs_sub_comm]
      gcongr
    have : 0 ≤ r ^ 2 / 2 ^ 100 := by positivity
    linarith
  · -- otherwise the number is so large that the half unit does not count
    have hone : (1 : ℝ) ≤ |(u : ℝ) - m| := by
      exact_mod_cast Int.one_le_abs (sub_ne_zero.2 hne)
    have hrel : 2 ^ 53 * |(u : ℝ) - m| ≤ |(m : ℝ)| := by exact_mod_cast hnear
    have hbig : 2 ^ 52 * |(u : ℝ) - m| ≤ |r| := by
      have := abs_sub_abs_le_abs_sub (m : ℝ) r
      rw [abs_sub_comm] at this
      linarith
    have hdist : |(u : ℝ) - r| ≤ 2 * |(u : ℝ) - m| := by
      have := abs_sub_le (u : ℝ) m r
      rw [abs_sub_comm (m : ℝ)] at this
      linarith
    rw [← sq_abs ((u : ℝ) - r), ← sq_abs r]
    generalize |(u : ℝ) - m| = d at *
    calc |(u : ℝ) - r| ^ 2 ≤ (2 * d) ^ 2 := by gcongr
      _ = (2 ^ 52 * d) ^ 2 / 2 ^ 102 := by ring
      _ ≤ |r| ^ 2 / 2 ^ 102 := by gcongr
      _ ≤ 1 / 4 + |r| ^ 2 / 2 ^ 100 := by
        have : 0 ≤ |r| ^ 2 := by positivity
        linarith

/-! ### An accurate output of an input of ordinary size -/

/-- The magnitude of a value is the absolute value of its units. -/
theorem Fp.abs_units (x : F64) : |Fp.units x| = Fp.mag x := by
  rw [Fp.units]
  split
  · rw [abs_neg, Nat.abs_cast]
  · rw [Nat.abs_cast]

theorem Fp.units_sq (x : F64) : (Fp.units x : ℝ) ^ 2 = (Fp.mag x : ℝ) ^ 2 := by
  have h : ((|Fp.units x| : ℤ) : ℝ) = (Fp.mag x : ℝ) := by rw [Fp.abs_units, Int.cast_natCast]
  rw [← h, Int.cast_abs, sq_abs]

/-- The squared magnitude of a sample, by its components. -/
theorem Ideal.normSq_value (z : Cplx) :
    Complex.normSq (Ideal.value z) = (Fp.mag z.re : ℝ) ^ 2 + (Fp.mag z.im : ℝ) ^ 2 := by
  rw [Complex.normSq_apply, ← Fp.units_sq, ← Fp.units_sq, sq, sq, Ideal.value]

/-- The components of an input of R27 are at most 2^500 in magnitude. -/
theorem Ideal.normSq_value_le {x : List Cplx} (hd : Ideal.inDomain x = true) (m : Nat) :
    Complex.normSq (Ideal.value (x.getD m czero)) ≤ 2 * ((2 ^ 1574 : Nat) : ℝ) ^ 2 := by
  rw [List.getD_eq_getElem?_getD]
  cases h : x[m]? with
  | none => rw [Option.getD_none, Ideal.value_of_isZero czero_isZero, map_zero]; positivity
  | some z =>
    simp only [Ideal.inDomain, List.all_eq_true, Bool.and_eq_true, decide_eq_true_eq] at hd
    obtain ⟨⟨-, hre⟩, him⟩ := hd z (List.mem_of_getElem? h)
    rw [Option.getD_some, Ideal.normSq_value]
    generalize 2 ^ 1574 = B at hre him ⊢
    have hre' : (Fp.mag z.re : ℝ) ^ 2 ≤ (B : ℝ) ^ 2 := by gcongr
    have him' : (Fp.mag z.im : ℝ) ^ 2 ≤ (B : ℝ) ^ 2 := by gcongr
    linarith

/-- The 2-norm of an input of R27 of at most 2048 samples is at most 64 times the largest component. -/
theorem Ideal.sum_normSq_value_le {n : Nat} {x : List Cplx} (hn : n ≤ 2048)
    (hd : Ideal.inDomain x = true) :
    ∑ m ∈ Finset.range n, Complex.normSq (Ideal.value (x.getD m czero)) ≤
      ((64 * 2 ^ 1574 : Nat) : ℝ) ^ 2 := by
  have hterm := Ideal.normSq_value_le hd
  rw [Nat.cast_mul, mul_pow]
  generalize ((2 ^ 1574 : Nat) : ℝ) = B at hterm ⊢
  have hn' : (n : ℝ) ≤ 2048 := by exact_mod_cast hn
  calc ∑ m ∈ Finset.range n, Complex.normSq (Ideal.value (x.getD m czero))
      ≤ ∑ m ∈ Finset.range n, 2 * B ^ 2 := Finset.sum_le_sum fun m _ => hterm m
    _ = n * (2 * B ^ 2) := by rw [Finset.sum_const, Finset.card_range, nsmul_eq_mul]
    _ ≤ 2048 * (2 * B ^ 2) := by gcongr
    _ = ((64 : Nat) : ℝ) ^ 2 * B ^ 2 := by push_cast; ring

/-- An input with a component of at least 2^-1029 has a 2-norm of at least that. -/
theorem Ideal.le_sum_normSq_value {x : List Cplx}
    (hz : ∃ z ∈ x, 2 ^ 45 ≤ Fp.mag z.re ∨ 2 ^ 45 ≤ Fp.mag z.im) :
    (2 : ℝ) ^ 90 ≤
      ∑ m ∈ Finset.range x.length, Complex.normSq (Ideal.value (x.getD m czero)) := by
  obtain ⟨z, hmem, hbig⟩ := hz
  obtain ⟨m, hm, rfl⟩ := List.mem_iff_getElem.1 hmem
  have hsq {a : Nat} (h : 2 ^ 45 ≤ a) : (2 : ℝ) ^ 90 ≤ (a : ℝ) ^ 2 := by
    have : (2 : ℝ) ^ 45 ≤ a := by exact_mod_cast h
    calc (2 : ℝ) ^ 90 = (2 ^ 45) ^ 2 := by norm_num
      _ ≤ (a : ℝ) ^ 2 := by gcongr
  calc (2 : ℝ) ^ 90 ≤ Complex.normSq (Ideal.value (x.getD m czero)) := by
        rw [List.getD_eq_getElem _ _ hm, Ideal.normSq_value]
        rcases hbig with h | h
        · exact le_add_of_le_of_nonneg (hsq h) (by positivity)
        · exact le_add_of_nonneg_of_le (by positivity) (hsq h)
    _ ≤ _ := Finset.single_le_sum
        (f := fun m => Complex.normSq (Ideal.value (x.getD m czero)))
        (fun i _ => Complex.normSq_nonneg _) (Finset.mem_range.2 hm)

/-- Twice the bound on the ideal outputs is below the overflow threshold, `j` and `k` being the exponents of
the two. -/
theorem Fp.bound_lt_overflow {j k : Nat} (h : j ≤ k) : 2 * (64 * 2 ^ j) < (2 ^ 54 - 1) * 2 ^ k := by
  have hpow : 2 ^ j ≤ 2 ^ k := Nat.pow_le_pow_right two_pos h
  have hpos : 0 < 2 ^ k := by positivity
  omega

/-- A complex number within the bound has a near sample. -/
theorem Ideal.exists_value_near {X : ℂ} (hX : Complex.normSq X ≤ ((64 * 2 ^ 1574 : Nat) : ℝ) ^ 2) :
    ∃ z, Cx.isFinite z = true ∧
      Complex.normSq (Ideal.value z - X) ≤ 1 / 2 + Complex.normSq X / 2 ^ 100 := by
  have hB := Fp.bound_lt_overflow (show 1574 ≤ 2045 by norm_num)
  generalize 64 * 2 ^ 1574 = B at hX hB
  rw [Complex.normSq_apply, ← sq, ← sq] at hX
  obtain ⟨re, hre, hnre⟩ := Fp.exists_near (r := X.re)
    (abs_le_of_sq_le_sq (by linarith [sq_nonneg X.im]) (Nat.cast_nonneg B)) hB
  obtain ⟨im, him, hnim⟩ := Fp.exists_near (r := X.im)
    (abs_le_of_sq_le_sq (by linarith [sq_nonneg X.re]) (Nat.cast_nonneg B)) hB
  refine ⟨⟨re, im⟩, by rw [Cx.isFinite, hre, him]; rfl, ?_⟩
  simp only [Complex.normSq_apply, ← sq, Complex.sub_re, Complex.sub_im, Ideal.value]
  linarith

/-- The half unit of each rounding is within the error that R27 (a) allows for inputs of ordinary size. -/
theorem Ideal.rounding_error_le {n : Nat} (hn : n ≤ 2048) {S : ℝ} (hS : 2 ^ 90 ≤ S) :
    n * (1 / 2) + S / 2 ^ 100 ≤ (Ideal.errRel : ℝ) ^ 2 * S := by
  have hn' : (n : ℝ) ≤ 2048 := by exact_mod_cast hn
  norm_num [Ideal.errRel] at hS ⊢
  linarith

/-- Every input of ordinary size has an accurate output: the ideal outputs, rounded. -/
theorem Ideal.exists_accurate (dir : Dir) {n : Nat} {x : List Cplx} (hl : x.length = n)
    (hd : Ideal.inDomain x = true) (h1 : 1 ≤ n) (h2 : n ≤ 2048)
    (hz : ∃ z ∈ x, 2 ^ 45 ≤ Fp.mag z.re ∨ 2 ^ 45 ≤ Fp.mag z.im) :
    ∃ y, y.length = n ∧ Ideal.Accurate dir n x y := by
  obtain ⟨X, hX⟩ : ∃ X, Ideal.IsDft dir n (fun m => Ideal.value (x.getD m czero)) X :=
    ⟨_, fun _ => rfl⟩
  have hnorm := hX.sum_normSq (by omega)
  have hlow := Ideal.le_sum_normSq_value hz
  rw [hl] at hlow
  have hnear : ∀ k, ∃ z, Cx.isFinite z = true ∧ (k < n →
      Complex.normSq (Ideal.value z - X k) ≤ 1 / 2 + Complex.normSq (X k) / 2 ^ 100) := fun k => by
    by_cases hk : k < n
    · have hterm : Complex.normSq (X k) ≤ ∑ k ∈ Finset.range n, Complex.normSq (X k) :=
        Finset.single_le_sum (f := fun k => Complex.normSq (X k))
          (fun i _ => Complex.normSq_nonneg _) (Finset.mem_range.2 hk)
      rw [hnorm] at hterm
      obtain ⟨z, hf, hz⟩ := Ideal.exists_value_near (hterm.trans (Ideal.sum_normSq_value_le h2 hd))
      exact ⟨z, hf, fun _ => hz⟩
    · exact ⟨czero, by decide, fun h => absurd h hk⟩
  choose f hfin hdist using hnear
  refine ⟨(List.range n).map f, by simp, ?_, X, hX, ?_⟩
  · simpa using fun k _ => hfin k
  · calc ∑ k ∈ Finset.range n,
          Complex.normSq (Ideal.value (((List.range n).map f).getD k czero) - X k)
        ≤ ∑ k ∈ Finset.range n, (1 / 2 + Complex.normSq (X k) / 2 ^ 100) := by
          refine Finset.sum_le_sum fun k hk => ?_
          have hk' := Finset.mem_range.1 hk
          rw [List.getD_eq_getElem _ _ (by simpa using hk'), List.getElem_map, List.getElem_range]
          exact hdist k hk'
      _ = n * (1 / 2) + (∑ k ∈ Finset.range n, Complex.normSq (X k)) / 2 ^ 100 := by
          rw [Finset.sum_add_distrib, Finset.sum_const, Finset.card_range, nsmul_eq_mul,
            Finset.sum_div]
      _ ≤ _ := by
          rw [hnorm]
          exact Ideal.rounding_error_le h2 hlow

/-- Settles O24: FFT_IMPL is accurate wherever some output is, which the rounded ideal output is for inputs
of ordinary size. -/
theorem transformIsAccurate : Obligations.TransformIsAccurate := by
  intro dir n x hl hd
  have hmeets := xform_meets dir n x
  refine ⟨hmeets.accurate hl hd, fun h1 h2 hz => ?_, fun h1 => hmeets.one h1 (hl.trans h1) hd⟩
  exact hmeets.accurate hl hd (Ideal.exists_accurate dir hl hd h1 h2 hz)

end Sys2Proof.Machine
end

section
/-! PROOF. What a command does, said once for all fourteen: it raises an error, or it computes an effect from
the operands that it reads and completes (60_exceptions R310, R311). Nothing else that the host can see
or set plays a part (10_state R49, R50, R63). -/

namespace Sys2Proof.Machine

/-! ### The effect of a command -/

/-- What a command that passes its checks leaves behind before it completes (60_exceptions R310). -/
structure Effect where
  /-- the buffers -/
  mem : Memory
  /-- the result registers -/
  results : Results
  /-- the active configuration -/
  active : Active
  /-- STATUS.CFG_VALID -/
  cfgValid : Bool
  /-- the next unused draw of free values -/
  draw : Nat
  /-- what becomes of the sticky flag STATUS.DEGEN -/
  degen : Bool → Bool

/-- The effect that leads to the state `u`, for a command that does not touch DEGEN. -/
def Effect.of (u : State) : Effect :=
  { mem := u.mem, results := u.results, active := u.active, cfgValid := u.status.cfgValid,
    draw := u.draw, degen := id }

/-- The state that an effect leaves. -/
def State.withEffect (s : State) (e : Effect) : State :=
  { s with
    mem := e.mem, results := e.results, active := e.active, draw := e.draw
    status := { s.status with cfgValid := e.cfgValid, degen := e.degen s.status.degen } }

/-- The bounds of an effect: a command that stores is configured and stores within one buffer of a legal
configuration, and the configuration is kept or replaced by a legal one. -/
structure Effect.Valid (e : Effect) (s : State) : Prop where
  /-- the buffers (00_scope R10, 20_memory R101) -/
  mem : e.mem = s.mem ∨ s.status.cfgValid = true ∧ ∃ (b : Buffer) (bs : List Byte),
    e.mem = s.mem.writeBlock b.base bs ∧ (s.active.legal → bs.length ≤ b.size)
  /-- the configuration (40_config_grid R171) -/
  config : e.active = s.active ∧ e.cfgValid = s.status.cfgValid ∨
    e.cfgValid = true ∧ e.active.legal

/-- No store, and the same configuration. -/
theorem Effect.Valid.unchanged (s : State) : (Effect.of s).Valid s := ⟨.inl rfl, .inl ⟨rfl, rfl⟩⟩

/-- A configured block stores at most `n` elements, which fit the buffer under a legal configuration. -/
theorem Effect.Valid.store {s : State} {e : Effect} {b : Buffer} {zs : List Cplx} {n : Nat}
    (hv : s.status.cfgValid = true)
    (hmem : e.mem = s.mem.writeBlock b.base (zs.flatMap cplxBytes)) (hlen : zs.length ≤ n)
    (hfit : s.active.legal → 16 * n ≤ b.size) (hact : e.active = s.active := by rfl)
    (hcfg : e.cfgValid = s.status.cfgValid := by rfl) : e.Valid s := by
  refine ⟨.inr ⟨hv, b, _, hmem, fun h => ?_⟩, .inl ⟨hact, hcfg⟩⟩
  rw [flatMap_cplxBytes_length]
  exact (Nat.mul_le_mul_left 16 hlen).trans (hfit h)

/-! ### What a command does not read -/

/-- The block with another value in everything that the host can set or see and that is no operand of a
command: STATUS but for CFG_VALID, IRQ_EN, ERR_INFO, the configuration shadow and GRID_K (10_state R49,
R50, R63). -/
def State.withHostSide (s : State) (st : Status) (ie : IrqEnable) (info : Word) (c : HostConfig) :
    State :=
  { s with
    status := { st with cfgValid := s.status.cfgValid }, irqEn := ie, errInfo := info
    cfg := { c with epsLo := s.cfg.epsLo, epsHi := s.cfg.epsHi, scfdmEn := s.cfg.scfdmEn } }

/-- A command of opcode `op` finishes in the same way from `s` and from `s'`: it raises the same error in both,
or has the same effect on both and completes with the same OUT_LEN. -/
inductive Finishes (op : BitVec 8) (s s' : State) : State → State → Prop
  /-- an error (60_exceptions R311) -/
  | raised {code : ErrCode} (info : Nat) (h : code ≠ .ok) :
    Finishes op s s' (s.raiseError op code info) (s'.raiseError op code info)
  /-- successful completion (60_exceptions R310) -/
  | completed (e : Effect) (n : Nat) (h : e.Valid s) :
    Finishes op s s' ((s.withEffect e).complete op n) ((s'.withEffect e).complete op n)

/-- Two runs that pass the same check go on alike. -/
theorem Finishes.ite {op : BitVec 8} {s s' t t' u u' : State} {c : Prop} [Decidable c]
    (h : c → Finishes op s s' t t') (h' : ¬c → Finishes op s s' u u') :
    Finishes op s s' (if c then t else u) (if c then t' else u') := by
  split
  · exact h ‹_›
  · exact h' ‹_›

/-- Two runs of a command that asks for a configuration are both refused or both go on (60_exceptions R312
NOT_CONFIGURED). -/
theorem Finishes.configured {op : BitVec 8} {s s' u u' : State}
    (heq : s'.status.cfgValid = s.status.cfgValid)
    (h : s.status.cfgValid = true → Finishes op s s' u u') :
    Finishes op s s' (if !s.status.cfgValid then s.raiseError op .notConfigured 0 else u)
      (if !s'.status.cfgValid then s'.raiseError op .notConfigured 0 else u') := by
  rw [heq]
  exact .ite (fun _ => .raised 0 nofun) fun hv => h (by simpa using hv)

/-- A command goes from `s` and from `s'` to next states, and finishes in the same way in both. -/
def RunsAlike (i : Instr) (s s' : State) : Prop :=
  ∃ t t', exec i s = .next t ∧ exec i s' = .next t' ∧ Finishes i.opcode s s' t t'

/-! ### Sizes of the stores -/

/-- A grid has a pilot in every six subcarriers at most (40_config_grid R173). -/
theorem count_pilot_le (g : Grid) : g.count .pilot ≤ g.n / 6 + 1 := by
  have hsub : g.indices .pilot ⊆ (List.range (g.n / 6 + 1)).map fun q => g.guardLeft + 6 * q + 3 := by
    intro k hk
    obtain ⟨hn, hc⟩ := List.mem_filter.1 hk
    rw [List.mem_range] at hn
    rw [beq_iff_eq, Grid.classify] at hc
    split_ifs at hc with hguard _ hoffset
    simp only [Config.pilotSpacing, Nat.reduceDiv] at hoffset
    refine List.mem_map.2 ⟨(k - g.guardLeft) / 6, ?_, ?_⟩
    · rw [List.mem_range]
      omega
    · omega
  have hle := ((List.nodup_range.filter _).subperm hsub).length_le
  rwa [List.length_map, List.length_range] at hle

/-- The counts of a legal configuration fit the buffers that are indexed by them (00_scope R10). -/
structure State.CountsFit (s : State) : Prop where
  /-- N elements, in FREQ, EQ and CHAN -/
  N : 16 * s.N ≤ Buffer.freq.size
  /-- Nc symbols -/
  Nc : 16 * s.Nc ≤ Buffer.sym.size
  /-- M symbols -/
  M : 16 * s.M ≤ Buffer.sym.size
  /-- P pilots -/
  P : 16 * s.P ≤ Buffer.prx.size
  /-- N + CP samples -/
  time : 16 * (s.N + s.CP) ≤ Buffer.time.size

theorem countsFit_of_legal {s : State} (h : s.active.legal) : s.CountsFit := by
  obtain ⟨-, hn, -, -, hnc, hcp⟩ := legal_ranges h
  obtain ⟨hm, hp⟩ := legal_counts h
  have hd := count_le ⟨s.active.n.toNat, s.active.nc.toNat⟩ .data
  have hq := count_pilot_le ⟨s.active.n.toNat, s.active.nc.toNat⟩
  rw [← hm] at hd
  rw [← hp] at hq
  simp only at hd hq
  constructor <;> simp only [State.N, State.Nc, State.M, State.P, State.CP, Buffer.size, Config.freqCap,
    Config.symCap, Config.pilCap, Config.timeCap] <;> omega

/-- A count within capacity fits SYM (60_exceptions R312 CAPACITY). -/
theorem sym_fits {cnt : Nat} (h : ¬Config.symCap < cnt) : 16 * cnt ≤ Buffer.sym.size := by
  simp only [Buffer.size]
  omega

/-- A bit group has the bits of both coordinates (46_qam R290). -/
theorem decideGroup_length (m : Modulation) (z : Cplx) : (m.decideGroup z).length = 2 * m.axisBits := by
  cases m <;> rfl

/-- All groups of a modulation have the same length (46_qam R294). -/
theorem flatMap_decideGroup_length (m : Modulation) (zs : List Cplx) :
    (zs.flatMap m.decideGroup).length = 2 * m.axisBits * zs.length := by
  simp [List.length_flatMap, decideGroup_length, Nat.mul_comm]

/-! ### The commands -/

/-- CONFIG fails with an error code (40_config_grid R171). -/
theorem check_code_ne_ok {c : HostConfig} {e : ErrCode × Nat} (h : c.check = some e) : e.1 ≠ .ok := by
  unfold HostConfig.check at h
  simp only at h
  split_ifs at h <;> cases h <;> exact nofun

/-- What CONFIG latches is legal when its checks pass: the checks and the derived values look at the latched
fields of the shadow only (40_config_grid R171, R172). -/
theorem derive_legal {c : HostConfig} (h : c.check = none) : c.derive.legal := ⟨h, rfl⟩

section
variable (s : State) (st : Status) (ie : IrqEnable) (info : Word) (c : HostConfig)

theorem nop_runsAlike : RunsAlike .nop s (s.withHostSide st ie info c) :=
  ⟨_, _, rfl, rfl, .completed (.of s) _ (.unchanged s)⟩

/-- CONFIG alone reads the shadow (10_state R49). -/
theorem config_runsAlike : RunsAlike .config s (s.withHostSide st ie info s.cfg) := by
  unfold RunsAlike exec execConfig
  have hsame : (s.withHostSide st ie info s.cfg).cfg.check = s.cfg.check := rfl
  rw [hsame]
  cases hc : s.cfg.check with
  | some e => exact ⟨_, _, rfl, rfl, .raised _ (check_code_ne_ok hc)⟩
  | none =>
    exact ⟨_, _, rfl, rfl, .completed { Effect.of s with active := s.cfg.derive, cfgValid := true } _
      ⟨.inl rfl, .inr ⟨rfl, derive_legal hc⟩⟩⟩

/-- The rule that PRECODE and DECODE share (41_precoder R200 to R202). -/
theorem precoder_finishes (dir : Dir) (op : BitVec 8) (cnt : Nat) :
    Finishes op s (s.withHostSide st ie info c) (precoder dir op cnt s)
      (precoder dir op cnt (s.withHostSide st ie info c)) := by
  refine .configured rfl fun hv => .ite (fun _ => .raised _ nofun) fun hcap =>
    .ite (fun _ => .completed (.of s) _ (.unchanged s)) fun _ =>
      .ite (fun _ => .raised _ nofun) fun _ => ?_
  exact .completed (.of (s.writeElems .sym (xform dir cnt (s.elems .sym cnt)))) _
    (.store hv (b := .sym) rfl (xform_length _ _ _).le fun _ => sym_fits hcap)

theorem map_runsAlike (cnt : Nat) : RunsAlike (.map cnt) s (s.withHostSide st ie info c) := by
  refine ⟨_, _, rfl, rfl, .configured rfl fun hv => .ite (fun _ => .raised _ nofun) fun _ =>
    .ite (fun _ => .ite (fun _ => .raised _ nofun) fun _ => ?_)
      fun _ => .ite (fun _ => .raised _ nofun) fun _ => ?_⟩
  · exact .completed (.of (s.mapped (s.mapSimple cnt) cnt 0)) _
      (.store hv (b := .freq) rfl (by simp) fun h => (countsFit_of_legal h).N)
  · exact .completed (.of (s.mapped (s.mapLte cnt) cnt s.P)) _
      (.store hv (b := .freq) rfl (by simp) fun h => (countsFit_of_legal h).N)

theorem extractData_runsAlike (src : Src) :
    RunsAlike (.extractData src) s (s.withHostSide st ie info c) := by
  refine ⟨_, _, rfl, rfl, .configured rfl fun hv => .ite (fun _ => ?_) fun _ => ?_⟩
  · exact .completed (.of (s.writeElems .sym (s.elems (srcBuffer src) s.Nc))) _
      (.store hv (b := .sym) rfl (elems_length _ _ _).le fun h => (countsFit_of_legal h).Nc)
  · exact .completed (.of (s.writeElems .sym
      ((List.range s.M).map fun i => s.elem (srcBuffer src) (s.grid.dataIndex i)))) _
      (.store hv (b := .sym) rfl (by simp) fun h => (countsFit_of_legal h).M)

theorem extractPilots_runsAlike (src : Src) :
    RunsAlike (.extractPilots src) s (s.withHostSide st ie info c) := by
  refine ⟨_, _, rfl, rfl, .configured rfl fun hv => .ite (fun _ => .raised _ nofun) fun _ => ?_⟩
  exact .completed (.of (s.writeElems .prx
    ((List.range s.P).map fun j => s.elem (srcBuffer src) (s.grid.pilotIndex j)))) _
    (.store hv (b := .prx) rfl (by simp) fun h => (countsFit_of_legal h).P)

theorem ifftCp_runsAlike : RunsAlike .ifftCp s (s.withHostSide st ie info c) := by
  refine ⟨_, _, rfl, rfl, .configured rfl fun hv => ?_⟩
  exact .completed (.of (s.writeElems .time
    (withPrefix s.N s.CP (xform .inv s.N (s.elems .freq s.N))))) _
    (.store hv (b := .time) rfl (by simp [withPrefix]; omega) fun h => (countsFit_of_legal h).time)

theorem cpFft_runsAlike (cnt : Nat) : RunsAlike (.cpFft cnt) s (s.withHostSide st ie info c) := by
  refine ⟨_, _, rfl, rfl, .configured rfl fun hv => .ite (fun _ => .raised _ nofun) fun _ =>
    .ite (fun _ => ?_) fun _ => ?_⟩
  · exact .completed { Effect.of s with results := { s.results with rxPad := 0 } } _
      ⟨.inl rfl, .inl ⟨rfl, rfl⟩⟩
  · exact .completed { Effect.of (s.writeElems .freq
        (xform .fwd s.N ((List.range s.N).map (s.received cnt)))) with
      results := { s.results with rxPad := BitVec.ofNat 13 (s.N + s.CP - cnt) } } _
      (.store hv (b := .freq) rfl (by simp) fun h => (countsFit_of_legal h).N)

theorem chest_runsAlike : RunsAlike .chest s (s.withHostSide st ie info c) := by
  refine ⟨_, _, rfl, rfl, .configured rfl fun hv => .ite (fun _ => .raised _ nofun) fun _ =>
    .ite (fun _ => .raised _ nofun) fun _ => ?_⟩
  have hsame : (s.withHostSide st ie info c).zeroPilot = s.zeroPilot := rfl
  rw [hsame]
  cases s.zeroPilot with
  | some j => exact .raised _ nofun
  | none =>
    exact .completed (.of s.estimated) _
      (.store hv (b := .chan) rfl (by simp) fun h => (countsFit_of_legal h).N)

theorem equalize_runsAlike : RunsAlike .equalize s (s.withHostSide st ie info c) := by
  refine ⟨_, _, rfl, rfl, .configured rfl fun hv => ?_⟩
  exact .completed { Effect.of (s.writeElems .eq ((List.range s.N).map s.equalized)) with
    draw := s.draw + 1
    results := { s.results with degenCount := BitVec.ofNat 12 s.degenerateCount }
    degen := fun d => d || decide (0 < s.degenerateCount) } _
    (.store hv (b := .eq) rfl (by simp) fun h => (countsFit_of_legal h).N)

theorem qamMap_runsAlike (cnt : Nat) : RunsAlike (.qamMap cnt) s (s.withHostSide st ie info c) := by
  refine ⟨_, _, rfl, rfl, .configured rfl fun hv => .ite (fun _ => .raised _ nofun) fun hcap =>
    .ite (fun _ => .raised _ nofun) fun _ => ?_⟩
  have hle : cnt / s.bps ≤ Config.symCap := Nat.div_le_of_le_mul (not_lt.1 hcap)
  exact .completed (.of (s.writeElems .sym ((List.range (cnt / s.bps)).map s.symbolOfBits))) _
    (.store hv (b := .sym) rfl (by simp) fun _ => sym_fits (not_lt.2 hle))

theorem qamDemap_runsAlike (cnt : Nat) :
    RunsAlike (.qamDemap cnt) s (s.withHostSide st ie info c) := by
  refine ⟨_, _, rfl, rfl, .configured rfl fun hv => .ite (fun _ => .raised _ nofun) fun hcap => ?_⟩
  refine .completed (.of (s.writeBits ((s.elems .sym cnt).flatMap s.modulation.decideGroup))) _
    ⟨.inr ⟨hv, .bits, _, rfl, fun _ => ?_⟩, .inl ⟨rfl, rfl⟩⟩
  rw [List.length_map, List.length_range, flatMap_decideGroup_length, elems_length]
  have hbits : 2 * s.modulation.axisBits * cnt ≤ 6 * cnt :=
    Nat.mul_le_mul_right _ (by cases s.modulation <;> decide)
  simp only [Config.symCap, Config.bitsCap, Buffer.size] at hcap ⊢
  omega

theorem qamDetect_runsAlike (cnt : Nat) :
    RunsAlike (.qamDetect cnt) s (s.withHostSide st ie info c) := by
  refine ⟨_, _, rfl, rfl, .configured rfl fun hv => .ite (fun _ => .raised _ nofun) fun hcap => ?_⟩
  exact .completed (.of (s.writeElems .sym ((s.elems .sym cnt).map s.modulation.nearest))) _
    (.store hv (b := .sym) rfl (by simp [elems_length]) fun _ => sym_fits hcap)

/-- Every command runs alike whatever the host side holds, and CONFIG alone reads the shadow (10_state
R49, R50, R63). -/
theorem exec_runsAlike (i : Instr) (hc : i = .config → c = s.cfg) :
    RunsAlike i s (s.withHostSide st ie info c) := by
  cases i with
  | nop => exact nop_runsAlike s st ie info c
  | config => rw [hc rfl]; exact config_runsAlike s st ie info
  | precode cnt => exact ⟨_, _, rfl, rfl, precoder_finishes s st ie info c .fwd _ cnt⟩
  | decode cnt => exact ⟨_, _, rfl, rfl, precoder_finishes s st ie info c .inv _ cnt⟩
  | map cnt => exact map_runsAlike s st ie info c cnt
  | extractData src => exact extractData_runsAlike s st ie info c src
  | extractPilots src => exact extractPilots_runsAlike s st ie info c src
  | ifftCp => exact ifftCp_runsAlike s st ie info c
  | cpFft cnt => exact cpFft_runsAlike s st ie info c cnt
  | chest => exact chest_runsAlike s st ie info c
  | equalize => exact equalize_runsAlike s st ie info c
  | qamMap cnt => exact qamMap_runsAlike s st ie info c cnt
  | qamDemap cnt => exact qamDemap_runsAlike s st ie info c cnt
  | qamDetect cnt => exact qamDetect_runsAlike s st ie info c cnt

end

/-- The block's own host side is one of those that a command runs alike with. -/
theorem exec_finishes (i : Instr) (s : State) : ∃ t, exec i s = .next t ∧ Finishes i.opcode s s t t := by
  obtain ⟨t, t', h, h', hfin⟩ := exec_runsAlike s s.status s.irqEn s.errInfo s.cfg i fun _ => rfl
  cases h.symm.trans h'
  exact ⟨t, h, hfin⟩

/-! ### The statements -/

/-- What an ended command leaves alone, and the completion fields (60_exceptions R310, R311). -/
theorem Finishes.untouched {op : BitVec 8} {s s' t t' : State} (h : Finishes op s s' t t') :
    Untouched s t := by
  cases h <;> constructor <;> rfl

/-- Settles O9: each way to finish sets the completion fields so. -/
theorem everyCommandCompletes : Obligations.EveryCommandCompletes := by
  intro i s
  obtain ⟨t, h, hfin⟩ := exec_finishes i s
  refine ⟨t, h, hfin.untouched, ?_⟩
  cases hfin with
  | raised n hcode => exact ⟨rfl, rfl, rfl, by simp [hcode]⟩
  | completed e n _ => exact ⟨rfl, rfl, rfl, by simp [State.withEffect]⟩

/-- Settles O59: both runs finish with the same error, or with the same effect. -/
theorem commandsIgnoreFlags : Obligations.CommandsIgnoreFlags := by
  intro i s t t' st ie info hv h h'
  obtain ⟨u, u', hu, hu', hfin⟩ := exec_runsAlike s st ie info s.cfg i fun _ => rfl
  rw [State.withHostSide, ← hv] at hu'
  cases hu.symm.trans h
  cases hu'.symm.trans h'
  cases hfin <;> exact ⟨rfl, rfl, rfl, rfl, rfl, rfl⟩

/-- Settles O60: both runs finish with the same error, or with the same effect, and each keeps its shadow. -/
theorem shadowDoesNotMatter : Obligations.ShadowDoesNotMatter := by
  intro i s t c0 c1 hi h
  obtain ⟨u, u', hu, hu', hfin⟩ := exec_runsAlike s s.status s.irqEn s.errInfo
    ((s.cfg.writeCfg0 c0).writeCfg1 c1) i fun hc => absurd hc hi
  cases hu.symm.trans h
  refine Eq.trans hu' (congrArg _ ?_)
  cases hfin <;> rfl

end Sys2Proof.Machine
end

section
/-! PROOF. The engine's turn runs the pending command (10_state R81), and every event of a history keeps the
invariant, so the block meets it after every history from reset (93_implementation_defined section 1). -/

namespace Sys2Proof.Machine

/-! ### The engine's turn -/

/-- A turn of an idle engine changes nothing (10_state R80). -/
theorem engineTurn_of_idle {s : State} (h : s.engine = .idle) : engineTurn s = .next s := by
  simp [engineTurn, h]

/-- A turn with a pending command runs it (10_state R81). -/
theorem engineTurn_of_command {s : State} {w : Word} {i : Instr} (h : s.engine = .pending w)
    (hd : decode w = .ok i) : engineTurn s = exec i s := by
  simp [engineTurn, runPending, h, hd]

/-- A turn with a pending word that is no command rejects it (30_encoding R143). -/
theorem engineTurn_of_error {s : State} {w : Word} {e : DecodeError} (h : s.engine = .pending w)
    (hd : decode w = .error e) : engineTurn s = .next (s.rejectWord w e) := by
  simp [engineTurn, runPending, h, hd]

/-- With nothing scheduled, a step is the engine's turn (log 1). -/
theorem step_of_nil {s : State} (h : s.sched = []) : step s = engineTurn s := by
  simp [step, h]

/-- A step takes the next scheduled event (20_memory R120, log 1). -/
theorem step_of_cons {s : State} {e : Event} {rest : List Event} (h : s.sched = e :: rest) :
    step s = runEvent e { s with sched := rest } := by
  simp [step, h]

/-- Settles O4: either way the step is the engine's turn, which runs the decoded command. -/
theorem stepRunsDecodedCommand : Obligations.StepRunsDecodedCommand := by
  intro s w i hw hd
  refine ⟨fun hs => ?_, fun rest hs => ?_⟩
  · rw [step_of_nil hs, engineTurn_of_command hw hd]
  · rw [step_of_cons hs]
    exact engineTurn_of_command (s := { s with sched := rest }) hw hd

/-- The error of a word that is no command (30_encoding R143). -/
theorem rejectWord_eq_raiseError (s : State) (w : Word) (e : DecodeError) :
    ∃ code n, code ≠ .ok ∧ s.rejectWord w e = s.raiseError (opcField w) code n := by
  cases e with
  | illegalOpcode opc => exact ⟨.illegalOpcode, opc.toNat, nofun, rfl⟩
  | reservedArg arg => exact ⟨.reservedArg, arg.toNat, nofun, rfl⟩

/-! ### The invariant under the operations on the state -/

/-- The invariant looks at seven fields only. -/
theorem State.Inv.congr {s t : State} (h : s.Inv) (hmem : t.mem = s.mem := by rfl)
    (hvalid : t.status.cfgValid = s.status.cfgValid := by rfl)
    (hact : t.active = s.active := by rfl) (hengine : t.engine = s.engine := by rfl)
    (hcmd : t.cmdLast = s.cmdLast := by rfl)
    (hcode : t.status.errCode = s.status.errCode := by rfl)
    (hinfo : t.errInfo = s.errInfo := by rfl) : t.Inv where
  memWf := hmem ▸ h.memWf
  memInBuffers := hmem ▸ h.memInBuffers
  configLegal := by rw [hvalid, hact]; exact h.configLegal
  unconfigured := by rw [hvalid, hact]; exact h.unconfigured
  pendingIsCmdLast := by rw [hengine, hcmd]; exact h.pendingIsCmdLast
  okInfo := by rw [hcode, hinfo]; exact h.okInfo

/-- An idle block at the reset values of STATUS, ERR_INFO and the active configuration (10_state R90). -/
theorem inv_of_reset {s : State} (hwf : s.mem.wf) (hbuf : ∀ c ∈ s.mem, inBuffer c.1)
    (hengine : s.engine = .idle) (hstatus : s.status = .reset) (hact : s.active = .reset)
    (hinfo : s.errInfo = 0) : s.Inv where
  memWf := hwf
  memInBuffers := hbuf
  configLegal := by simp [hstatus, Status.reset]
  unconfigured := fun _ => hact
  pendingIsCmdLast := by simp [hengine]
  okInfo := fun _ => hinfo

/-- Settles O7: nothing is stored, configured or pending after reset. -/
theorem resetMeetsInvariant : Obligations.ResetMeetsInvariant :=
  inv_of_reset .nil nofun rfl rfl rfl rfl

theorem hardReset_inv (s : State) : (hardReset s).Inv := inv_of_reset .nil nofun rfl rfl rfl rfl

/-- A soft reset forgets bytes of the memory at most (70_reset R341). -/
theorem softReset_inv {s : State} (h : s.Inv) : (softReset s).Inv := by
  unfold softReset
  cases s.cancelled with
  | none => exact inv_of_reset h.memWf h.memInBuffers rfl rfl rfl rfl
  | some b =>
    exact inv_of_reset (unspecify_wf h.memWf b)
      (fun c hc => h.memInBuffers c (mem_eraseBlock hc)) rfl rfl rfl rfl

/-- A store into buffers keeps the invariant. -/
theorem writeBytes_inv {s : State} (h : s.Inv) {a : Nat} {bs : List Byte}
    (hbuf : ∀ x, a ≤ x → x < a + bs.length → inBuffer x) : (s.writeBytes a bs).Inv :=
  { h with
    memWf := writeBytes_wf h.memWf a bs
    memInBuffers := fun c hc =>
      (mem_writeBlock hc).elim (h.memInBuffers c) fun hrun => hbuf c.1 hrun.1 hrun.2 }

/-- An error keeps the invariant (60_exceptions R311). -/
theorem raiseError_inv {s : State} (h : s.Inv) (op : BitVec 8) {code : ErrCode} (n : Nat)
    (hcode : code ≠ .ok) : (s.raiseError op code n).Inv :=
  { h with
    pendingIsCmdLast := nofun
    okInfo := fun hok => absurd hok hcode }

/-- A valid effect, and the completion after it, keep the invariant (60_exceptions R310). -/
theorem complete_withEffect_inv {s : State} (h : s.Inv) {e : Effect} (he : e.Valid s)
    (op : BitVec 8) (n : Nat) : ((s.withEffect e).complete op n).Inv := by
  have hmem : e.mem.wf ∧ ∀ c ∈ e.mem, inBuffer c.1 := by
    obtain hsame | ⟨hv, b, bs, hstore, hlen⟩ := he.mem
    · rw [hsame]
      exact ⟨h.memWf, h.memInBuffers⟩
    · have hfit := hlen (h.configLegal hv)
      have hinv := writeBytes_inv h (a := b.base) (bs := bs) fun x h1 h2 =>
        inBuffer_of_range b h1 (by omega)
      rw [hstore]
      exact ⟨hinv.memWf, hinv.memInBuffers⟩
  have hconfig : (e.cfgValid = true → e.active.legal) ∧ (e.cfgValid = false → e.active = .reset) := by
    obtain ⟨hact, hv⟩ | ⟨hv, hlegal⟩ := he.config
    · rw [hact, hv]
      exact ⟨h.configLegal, h.unconfigured⟩
    · exact ⟨fun _ => hlegal, fun hf => absurd (hv.symm.trans hf) nofun⟩
  exact ⟨hmem.1, hmem.2, hconfig.1, hconfig.2, nofun, fun _ => rfl⟩

/-! ### The invariant under the events -/

/-- Every command keeps the invariant. -/
theorem exec_keeps_inv {s : State} (h : s.Inv) (i : Instr) : ∃ t, exec i s = .next t ∧ t.Inv := by
  obtain ⟨t, ht, hfin⟩ := exec_finishes i s
  refine ⟨t, ht, ?_⟩
  cases hfin with
  | raised n hcode => exact raiseError_inv h _ n hcode
  | completed e n he => exact complete_withEffect_inv h he _ n

/-- The engine's turn keeps the invariant (10_state R81). -/
theorem engineTurn_keeps_inv {s : State} (h : s.Inv) : ∃ t, engineTurn s = .next t ∧ t.Inv := by
  cases he : s.engine with
  | idle => exact ⟨s, engineTurn_of_idle he, h⟩
  | pending w =>
    cases hd : decode w with
    | ok i =>
      rw [engineTurn_of_command he hd]
      exact exec_keeps_inv h i
    | error e =>
      obtain ⟨code, n, hcode, heq⟩ := rejectWord_eq_raiseError s w e
      refine ⟨_, engineTurn_of_error he hd, ?_⟩
      rw [heq]
      exact raiseError_inv h _ n hcode

/-- A read changes flags of the host port and the read data only (20_memory R102, R103, R110). -/
theorem hostRead_inv {s : State} (h : s.Inv) (a : Addr) : (hostRead a s).Inv := by
  unfold hostRead
  cases target a with
  | reg r => exact h.congr
  | nothing => exact h.congr
  | buffer =>
    dsimp only
    split <;> exact h.congr

/-- A write of configuration changes the shadow, or flags a conflict (20_memory R110). -/
theorem configWrite_inv {s : State} (h : s.Inv) (f : HostConfig → HostConfig) :
    (s.configWrite f).Inv := by
  unfold State.configWrite
  split <;> exact h.congr

/-- A register write keeps the invariant (10_state R42 to R52). -/
theorem writeReg_inv {s : State} (h : s.Inv) (r : Reg) (v : Word) : (s.writeReg r v).Inv := by
  cases r with
  | ctrl =>
    dsimp only [State.writeReg]
    split
    · exact softReset_inv h
    · exact configWrite_inv h _
  | cmd =>
    dsimp only [State.writeReg]
    split
    · exact h.congr
    · exact { h with pendingIsCmdLast := fun w hw => Engine.pending.inj hw }
  | cfg0 | cfg1 | epsLo | epsHi | gridK =>
    unfold State.writeReg
    exact configWrite_inv h _
  | _ => exact h.congr

/-- The four bytes of an aligned word of a buffer lie in it (20_memory R101, R104). -/
theorem inBuffer_of_word {a x : Nat} (h4 : a % 4 = 0) (ha : inBuffer a) (h1 : a ≤ x) (h2 : x < a + 4) :
    inBuffer x := by
  obtain ⟨b, -, hb⟩ := List.find?_isSome.1 ha
  simp only [Buffer.holds, Bool.and_eq_true, decide_eq_true_eq] at hb
  have hbase : b.base % 4 = 0 := by cases b <;> rfl
  have hsize : b.size % 4 = 0 := by cases b <;> rfl
  exact inBuffer_of_range b (by omega) (by omega)

/-- A host write keeps the invariant (20_memory R100 to R103, R110). -/
theorem hostWrite_inv {s : State} (h : s.Inv) (a : Addr) (v : Word) : (hostWrite a v s).Inv := by
  unfold hostWrite
  cases ht : target a with
  | reg r => exact writeReg_inv h r v
  | nothing => exact h.congr
  | buffer =>
    obtain ⟨h4, hbuf⟩ := buffer_of_target ht
    dsimp only
    split
    · exact h.congr
    · exact writeBytes_inv h fun x h1 h2 => inBuffer_of_word h4 hbuf h1 h2

/-- Every step has a next state, and it keeps the invariant. -/
theorem step_keeps_inv {s : State} (h : s.Inv) : ∃ t, step s = .next t ∧ t.Inv := by
  cases hs : s.sched with
  | nil =>
    rw [step_of_nil hs]
    exact engineTurn_keeps_inv h
  | cons e rest =>
    rw [step_of_cons hs]
    have h' : State.Inv { s with sched := rest } := h.congr
    cases e with
    | memRead a => exact ⟨_, rfl, hostRead_inv h' a⟩
    | memWrite a v => exact ⟨_, rfl, hostWrite_inv h' a v⟩
    | hardReset => exact ⟨_, rfl, hardReset_inv _⟩
    | engineTurn => exact engineTurn_keeps_inv h'

/-- A run goes on from the next state of its first step. -/
theorem run_succ_of_next (k : Nat) {s t : State} (h : step s = .next t) :
    Host.Core.run Sys2Proof.core (k + 1) s = Host.Core.run Sys2Proof.core k t := by
  have hcore : Sys2Proof.core.step s = .next t := h
  simp [Host.Core.run, hcore]

/-- Any number of steps from a state that meets the invariant ends in one that meets it. -/
theorem run_keeps_inv (k : Nat) {s : State} (h : s.Inv) :
    ∃ t, Host.Core.run Sys2Proof.core k s = .next t ∧ t.Inv := by
  induction k generalizing s with
  | zero => exact ⟨s, rfl, h⟩
  | succ k ih =>
    obtain ⟨t, ht, hinv⟩ := step_keeps_inv h
    obtain ⟨u, hu, huinv⟩ := ih hinv
    exact ⟨u, (run_succ_of_next k ht).trans hu, huinv⟩

/-- Settles O8: the schedule is no part of the invariant, which holds at reset and which every step keeps. -/
theorem invariantOnEveryHistory : Obligations.InvariantOnEveryHistory :=
  fun _ k => run_keeps_inv k resetMeetsInvariant.congr

end Sys2Proof.Machine
end

section
/-! PROOF. The registers as the host port reads and writes them (10_state R42 to R62): what an access at a
register's address does, and which bits a written register reads back. -/

namespace Sys2Proof.Machine

/-! ### Accesses at a register's address -/

theorem hostWrite_of_reg {a : Addr} {r : Reg} (h : a.toNat = r.offset) (v : Word) (s : State) :
    hostWrite a v s = s.writeReg r v := by
  simp [hostWrite, target_of_reg h]

theorem hostRead_of_reg {a : Addr} {r : Reg} (h : a.toNat = r.offset) (s : State) :
    hostRead a s = { s with rdata := s.readReg r } := by
  simp [hostRead, target_of_reg h]

theorem busy_of_idle {s : State} (h : s.engine = .idle) : s.busy = false := by
  simp [State.busy, h]

theorem busy_of_pending {s : State} {w : Word} (h : s.engine = .pending w) : s.busy = true := by
  simp [State.busy, h]

/-- A configuration write of an idle block applies (20_memory R110). -/
theorem configWrite_of_idle {s : State} (h : s.engine = .idle) (f : HostConfig → HostConfig) :
    s.configWrite f = { s with cfg := f s.cfg } := by
  simp [State.configWrite, busy_of_idle h]

/-- The registers that no write changes (10_state R42, R62). -/
def Reg.readOnly : Reg → Bool
  | .ctrl | .cmd | .status | .irqEn | .cfg0 | .cfg1 | .epsLo | .epsHi | .gridK => false
  | _ => true

/-- A write of a read-only register is ignored (10_state R62). -/
theorem writeReg_of_readOnly {r : Reg} (h : r.readOnly = true) (s : State) (v : Word) :
    s.writeReg r v = s := by
  cases r with
  | ctrl | cmd | status | irqEn | cfg0 | cfg1 | epsLo | epsHi | gridK => cases h
  | _ => rfl

/-- The addresses of the read-only registers (10_state R42). -/
theorem exists_readOnly_of_addr {n : Nat} (h4 : n % 4 = 0)
    (h : n ∈ [0x000, 0x004, 0x018, 0x034] ∨ (0x040 ≤ n ∧ n ≤ 0x064) ∨ (0x070 ≤ n ∧ n ≤ 0x09C)) :
    ∃ r : Reg, n = r.offset ∧ r.readOnly = true := by
  -- the same in numbers of words, which are few enough to check one by one
  have hlisted : ∀ m < 0x28, (m ∈ [0, 1, 6, 13] ∨ (0x10 ≤ m ∧ m ≤ 0x19) ∨ (0x1C ≤ m ∧ m ≤ 0x27)) →
      ∃ r ∈ Reg.list, 4 * m = r.offset ∧ r.readOnly = true := by decide
  simp only [List.mem_cons, List.not_mem_nil, or_false] at h hlisted
  obtain ⟨r, -, hoff, hro⟩ := hlisted (n / 4) (by omega) (by omega)
  exact ⟨r, by omega, hro⟩

/-! ### The bits of the written registers -/

/-- A STATUS write clears bits 1, 2, 4, 5, 6 and 7 of STATUS where it has a 1 (10_state R45). -/
theorem statusWord_clear (s : State) (v : Word) :
    ({ s with status := s.status.clear v } : State).statusWord =
      s.statusWord &&& ~~~(v &&& 0x000000F6) := by
  have hbusy : ({ s with status := s.status.clear v } : State).busy = s.busy := rfl
  apply BitVec.eq_of_getLsbD_eq
  intro i hi
  simp only [State.statusWord, hbusy, BitVec.getLsbD_append, BitVec.getLsbD_and, BitVec.getLsbD_not]
  interval_cases i <;> simp [Status.clear]

/-- CFG0 reads back LOG2N, MOD and MODE (10_state R49, R61). -/
theorem cfg0_readback (v : Word) :
    (0 : BitVec 23) ++ BitVec.ofBool (v.getLsbD 8) ++ (0 : BitVec 2) ++ v.extractLsb' 4 2 ++
      v.extractLsb' 0 4 = v &&& 0x0000013F := by
  apply BitVec.eq_of_getLsbD_eq
  intro i hi
  simp only [BitVec.getLsbD_append, BitVec.getLsbD_and, BitVec.getLsbD_extractLsb']
  interval_cases i <;> simp

/-- CFG1 reads back NC and CP (10_state R50, R61). -/
theorem cfg1_readback (v : Word) :
    (0 : BitVec 4) ++ v.extractLsb' 16 12 ++ (0 : BitVec 4) ++ v.extractLsb' 0 12 =
      v &&& 0x0FFF0FFF := by
  apply BitVec.eq_of_getLsbD_eq
  intro i hi
  simp only [BitVec.getLsbD_append, BitVec.getLsbD_and, BitVec.getLsbD_extractLsb']
  interval_cases i <;> simp

/-- GRID_K reads back its 12 bits (10_state R52, R61). -/
theorem gridK_readback (v : Word) : (v.extractLsb' 0 12).setWidth 32 = v &&& 0x00000FFF := by
  apply BitVec.eq_of_toNat_eq
  simp [Nat.and_two_pow_sub_one_eq_mod v.toNat 12]
  omega

/-- IRQ_EN reads back its four enables (10_state R46, R61). -/
theorem irqEn_readback (v : Word) : (IrqEnable.ofWord v).word = v &&& 0x0000000F := by
  apply BitVec.eq_of_getLsbD_eq
  intro i hi
  simp only [IrqEnable.word, IrqEnable.ofWord, BitVec.getLsbD_append, BitVec.getLsbD_and]
  interval_cases i <;> simp

/-- CTRL reads back SCFDM_EN (10_state R44, R61). -/
theorem ctrl_readback (v : Word) :
    (0 : BitVec 31) ++ BitVec.ofBool (v.getLsbD 0) = v &&& 0x00000001 := by
  apply BitVec.eq_of_getLsbD_eq
  intro i hi
  simp only [BitVec.getLsbD_append, BitVec.getLsbD_and]
  interval_cases i <;> simp

/-! ### The statements -/

/-- Settles O54: the write is `Status.clear`, whatever the engine's state. -/
theorem statusWriteClearsW1C : Obligations.StatusWriteClearsW1C := by
  intro v s
  rw [hostWrite_of_reg (r := .status) rfl]
  exact ⟨statusWord_clear s v, rfl⟩

/-- A configuration write of an idle block changes the configuration by `f`, and its register then reads `w`. -/
theorem configWrite_readback (f : HostConfig → HostConfig) {a : Addr} {r : Reg} {v w : Word} {s : State}
    (h : s.engine = .idle) (ha : a.toNat = r.offset) (hwrite : s.writeReg r v = s.configWrite f)
    (hread : ({ s with cfg := f s.cfg } : State).readReg r = w) :
    hostWrite a v s = { s with cfg := f s.cfg } ∧ (hostWrite a v s).readReg r = w := by
  have heq : hostWrite a v s = { s with cfg := f s.cfg } := by
    rw [hostWrite_of_reg ha, hwrite, configWrite_of_idle h]
  exact ⟨heq, by rw [heq, hread]⟩

/-- A write of CTRL with bit 31 = 0 is a configuration write (10_state R44). -/
theorem writeReg_ctrl_of_bit31 {v : Word} (h : v.getLsbD 31 = false) (s : State) :
    s.writeReg .ctrl v = s.configWrite fun c => c.writeCtrl v := by
  rw [State.writeReg, h]
  rfl

/-- Settles O55, register by register. -/
theorem registersReadBack : Obligations.RegistersReadBack := by
  intro v s hidle
  refine ⟨?cfg0, ?cfg1, ?epsLo, ?epsHi, ?gridK, ?irqEn, ?ctrl, ?readOnly, ?read⟩
  case cfg0 => exact configWrite_readback (fun c => c.writeCfg0 v) hidle rfl rfl (cfg0_readback v)
  case cfg1 => exact configWrite_readback (fun c => c.writeCfg1 v) hidle rfl rfl (cfg1_readback v)
  case epsLo => exact configWrite_readback (fun c => { c with epsLo := v }) hidle rfl rfl rfl
  case epsHi => exact configWrite_readback (fun c => { c with epsHi := v }) hidle rfl rfl rfl
  case gridK => exact configWrite_readback (fun c => c.writeGridK v) hidle rfl rfl (gridK_readback v)
  case irqEn =>
    rw [hostWrite_of_reg (r := .irqEn) rfl]
    exact ⟨rfl, irqEn_readback v⟩
  case ctrl =>
    exact fun h31 => configWrite_readback (fun c => c.writeCtrl v) hidle rfl
      (writeReg_ctrl_of_bit31 h31 s) (ctrl_readback v)
  case readOnly =>
    intro a h4 ha
    obtain ⟨r, hr, hro⟩ := exists_readOnly_of_addr h4 ha
    rw [hostWrite_of_reg hr, writeReg_of_readOnly hro]
  case read => exact fun r a ha => hostRead_of_reg ha s

/-- A CMD write of an idle block accepts the word (10_state R43). -/
theorem writeReg_cmd_of_idle {s : State} (h : s.engine = .idle) (w : Word) :
    s.writeReg .cmd w = s.accept w := by
  simp [State.writeReg, busy_of_idle h]

/-- A CMD write while a command is pending is dropped with CMD_OVR (10_state R43). -/
theorem writeReg_cmd_of_pending {s : State} {v : Word} (h : s.engine = .pending v) (w : Word) :
    s.writeReg .cmd w = s.flagCmdOvr := by
  simp [State.writeReg, busy_of_pending h]

/-- Settles O51: the three accesses to CMD, then the engine's turn with a word that is rejected. -/
theorem cmdWriteAcceptsOrDrops : Obligations.CmdWriteAcceptsOrDrops := by
  intro w v s
  rw [hostWrite_of_reg (r := .cmd) rfl]
  refine ⟨(writeReg_cmd_of_idle · w), (writeReg_cmd_of_pending · w),
    hostRead_of_reg (r := .cmd) rfl s, rfl, ?_⟩
  intro hidle hno
  rw [writeReg_cmd_of_idle hidle]
  cases hd : decode w with
  | ok i => exact absurd hd (hno i)
  | error e =>
    obtain ⟨code, n, hcode, heq⟩ := rejectWord_eq_raiseError (s.accept w) w e
    exact ⟨_, (engineTurn_of_error rfl hd).trans (congrArg _ heq), rfl, rfl, rfl, hcode⟩

/-! ### GRID_INFO -/

/-- An ordinal counts lower subcarriers (10_state R53). -/
theorem ordinal_le (g : Grid) (k : Nat) : g.ordinal k ≤ k :=
  (List.length_filter_le _ _).trans (by simp)

/-- GRID_INFO of a configured block for a subcarrier of the grid (10_state R53). -/
theorem gridInfo_of_lt {s : State} (hv : s.status.cfgValid = true) (hk : s.cfg.gridK.toNat < s.N) :
    s.gridInfo = (1 : BitVec 1) ++ (0 : BitVec 4) ++
      BitVec.ofNat 11 (s.grid.ordinal s.cfg.gridK.toNat) ++ (0 : BitVec 14) ++
      (s.grid.classify s.cfg.gridK.toNat).toBits := by
  simp [State.gridInfo, hv, hk]

/-- GRID_INFO of an unconfigured block, or for a number past the grid (10_state R53). -/
theorem gridInfo_eq_zero {s : State} (h : s.status.cfgValid = false ∨ s.N ≤ s.cfg.gridK.toNat) :
    s.gridInfo = 0 := by
  unfold State.gridInfo
  dsimp only
  rw [if_neg]
  obtain hv | hk := h
  · simp [hv]
  · simp [hk]

/-- The fields of GRID_INFO: VALID, ORD and TYPE, and its reserved bits (10_state R53). -/
theorem gridInfo_fields (ord : BitVec 11) (type : BitVec 2) :
    let v : Word := (1 : BitVec 1) ++ (0 : BitVec 4) ++ ord ++ (0 : BitVec 14) ++ type
    v.getLsbD 31 = true ∧ v.extractLsb' 16 11 = ord ∧ v.extractLsb' 0 2 = type ∧
      v.extractLsb' 2 14 = 0 ∧ v.extractLsb' 27 4 = 0 := by
  intro v
  -- each field is reached past the fields below it
  have hpast2 {len : Nat} (start : Nat) (h : 2 ≤ start) : v.extractLsb' start len = _ :=
    BitVec.extractLsb'_append_eq_of_le h
  have hpast16 {len : Nat} (start : Nat) (h : 16 ≤ start) : v.extractLsb' start len = _ :=
    (hpast2 start (by omega)).trans (BitVec.extractLsb'_append_eq_of_le (by omega))
  have hpast27 {len : Nat} (start : Nat) (h : 27 ≤ start) : v.extractLsb' start len = _ :=
    (hpast16 start (by omega)).trans (BitVec.extractLsb'_append_eq_of_le (by omega))
  refine ⟨?_, ?_, ?_, ?_, ?_⟩
  · simp only [v, BitVec.getLsbD_append]
    simp
  · rw [hpast16 16 (by decide)]
    exact BitVec.extractLsb'_append_eq_right
  · exact BitVec.extractLsb'_append_eq_right
  · rw [hpast2 2 (by decide)]
    exact BitVec.extractLsb'_append_eq_right
  · rw [hpast27 27 (by decide)]
    exact BitVec.extractLsb'_append_eq_right

/-- Settles O21: the fields of the register, whose ORD fits 11 bits as N is at most 2048. -/
theorem gridInfoAnswersQuery : Obligations.GridInfoAnswersQuery := by
  intro s
  refine ⟨fun hs hk => ?_, gridInfo_eq_zero⟩
  have hn : s.N ≤ 2048 := (legal_ranges hs.2).2.1
  have hord := ordinal_le s.grid s.cfg.gridK.toNat
  obtain ⟨h31, hOrd, hType, h2, h27⟩ := gridInfo_fields
    (BitVec.ofNat 11 (s.grid.ordinal s.cfg.gridK.toNat)) (s.grid.classify s.cfg.gridK.toNat).toBits
  rw [show s.readReg .gridInfo = _ from gridInfo_of_lt hs.1 hk]
  refine ⟨h31, ?_, hType, h2, h27⟩
  rw [hOrd, BitVec.toNat_ofNat, Nat.mod_eq_of_lt (by omega)]

end Sys2Proof.Machine
end

section
/-! PROOF. The host port over the address map (20_memory R100 to R110): what an access does at each kind of
address, the layouts of the buffers as the host's words show them, and what a pending command refuses. -/

namespace Sys2Proof.Machine

/-! ### Addresses that reach nothing -/

theorem hostWrite_of_nothing {a : Addr} (h : target a = .nothing) (v : Word) (s : State) :
    hostWrite a v s = s.flagBusErr := by
  simp [hostWrite, h]

theorem hostRead_of_nothing {a : Addr} (h : target a = .nothing) (s : State) :
    hostRead a s = { s.flagBusErr with rdata := 0 } := by
  simp [hostRead, h]

/-- The five unlisted offsets below the last register list no register (10_state R42). -/
theorem regOfAddr_none_of_gap : ∀ n ∈ [0x01C, 0x038, 0x03C, 0x068, 0x06C], Reg.ofAddr? n = none := by
  decide

/-- The register window and the unmapped ranges hold no buffer (20_memory R101). -/
theorem not_inBuffer_of_hole {n : Nat}
    (h : n < 0x02000 ∨ (0x02600 ≤ n ∧ n < 0x04000) ∨ (0x28000 ≤ n ∧ n < 0x30000)) : ¬ inBuffer n := by
  intro hn
  obtain ⟨b, -, hb⟩ := List.find?_isSome.1 hn
  simp only [Buffer.holds, Bool.and_eq_true, decide_eq_true_eq] at hb
  cases b <;> simp only [Buffer.base, Buffer.size, Config.bitsCap, Config.pilCap, Config.symCap,
    Config.freqCap, Config.timeCap] at hb <;> omega

/-- An address of no register and no buffer reaches nothing (20_memory R103). -/
theorem target_of_unmapped {a : Addr} (hreg : Reg.ofAddr? a.toNat = none) (hbuf : ¬ inBuffer a.toNat) :
    target a = .nothing := by
  simp [target, hreg, hbuf]

/-- Settles O47: alignment is checked first. -/
theorem misalignedAccessSetsBusErr : Obligations.MisalignedAccessSetsBusErr := fun _ v s h =>
  ⟨hostWrite_of_nothing (target_of_misaligned h) v s, hostRead_of_nothing (target_of_misaligned h) s⟩

/-- Settles O46: the gaps between the registers, then the ranges above them. -/
theorem unmappedAccessSetsBusErr : Obligations.UnmappedAccessSetsBusErr := by
  intro a v s _ h
  have ht : target a = .nothing := by
    obtain hgap | hrange := h
    · have hlow : ∀ n ∈ [0x01C, 0x038, 0x03C, 0x068, 0x06C], n < 0x02000 := by decide
      exact target_of_unmapped (regOfAddr_none_of_gap _ hgap)
        (not_inBuffer_of_hole (.inl (hlow _ hgap)))
    · exact target_of_unmapped (regOfAddr_none (by omega)) (not_inBuffer_of_hole (by omega))
  exact ⟨hostWrite_of_nothing ht v s, hostRead_of_nothing ht s⟩

/-! ### Words of a buffer -/

section
variable {a : Addr} {s : State} (h4 : a.toNat % 4 = 0) (hbuf : inBuffer a.toNat)
include h4 hbuf

theorem hostWrite_buffer_of_idle (hidle : s.engine = .idle) (v : Word) :
    hostWrite a v s = s.writeBytes a.toNat (wordBytes v) := by
  simp [hostWrite, target_of_buffer h4 hbuf, busy_of_idle hidle]

theorem hostRead_buffer_of_idle (hidle : s.engine = .idle) :
    hostRead a s = { s with rdata := s.word32 a.toNat } := by
  simp [hostRead, target_of_buffer h4 hbuf, busy_of_idle hidle]

theorem hostWrite_buffer_of_pending {w : Word} (hp : s.engine = .pending w) (v : Word) :
    hostWrite a v s = s.flagConflict := by
  simp [hostWrite, target_of_buffer h4 hbuf, busy_of_pending hp]

theorem hostRead_buffer_of_pending {w : Word} (hp : s.engine = .pending w) :
    hostRead a s = { s.flagConflict with rdata := 0 } := by
  simp [hostRead, target_of_buffer h4 hbuf, busy_of_pending hp]

end

/-- A store changes the bytes of its run only. -/
theorem sameBytesOutside_writeBytes (s : State) (a : Nat) (bs : List Byte) :
    SameBytesOutside a bs.length s (s.writeBytes a bs) := fun x hx => by
  rw [byte_writeBytes, if_neg (by omega)]

/-- Settles O48: the write is a store of the four bytes, and the read is their word. -/
theorem bufferWordReadsBack : Obligations.BufferWordReadsBack := by
  intro a v s hidle h4 hbuf
  rw [hostWrite_buffer_of_idle h4 hbuf hidle]
  refine ⟨?readBack, rfl, sameBytesOutside_writeBytes s a.toNat (wordBytes v), ?readFrame⟩
  case readBack =>
    have hidle' : (s.writeBytes a.toNat (wordBytes v)).engine = .idle := hidle
    rw [hostRead_buffer_of_idle h4 hbuf hidle']
    exact word32_writeBytes s a.toNat v
  case readFrame => rw [hostRead_buffer_of_idle h4 hbuf hidle]

/-- The word that an idle block returns for an aligned byte address of a buffer (20_memory R101, R104). -/
theorem rdata_hostRead_ofNat {s : State} (hidle : s.engine = .idle) {n : Nat} (h4 : n % 4 = 0)
    (hbuf : inBuffer n) : (hostRead (BitVec.ofNat 18 n) s).rdata = s.word32 n := by
  have hn : (BitVec.ofNat 18 n).toNat = n :=
    Nat.mod_eq_of_lt (show n < 2 ^ 18 from (inBuffer_bounds hbuf).2)
  rw [hostRead_buffer_of_idle (by rwa [hn]) (by rwa [hn]) hidle, hn]

/-- Settles O49: all four words lie in the buffer, and `word64` is made of two of them. -/
theorem elementIsFourWords : Obligations.ElementIsFourWords := by
  intro b i s _ hi hidle word
  have hbase : b.base % 4 = 0 := by cases b <;> rfl
  have hword : ∀ o, o % 4 = 0 → o < 16 → word o = s.word32 (b.elemAddr i + o) := fun o ho hlt =>
    rdata_hostRead_ofNat hidle (by omega) (inBuffer_of_range b (by omega) (by omega))
  rw [hword 0 rfl (by decide), hword 4 rfl (by decide), hword 8 rfl (by decide),
    hword 12 rfl (by decide)]
  rfl

/-- Bit `j` of a word is a bit of its byte `j div 8` (20_memory R104). -/
theorem word32_getLsbD (s : State) (a : Nat) {j : Nat} (hj : j < 32) :
    (s.word32 a).getLsbD j = (s.byte (a + j / 8)).getLsbD (j % 8) := by
  obtain ⟨q, r, hr, rfl⟩ : ∃ q r, r < 8 ∧ j = 8 * q + r :=
    ⟨j / 8, j % 8, Nat.mod_lt _ (by decide), (Nat.div_add_mod j 8).symm⟩
  rw [show (8 * q + r) / 8 = q by omega, show (8 * q + r) % 8 = r by omega]
  have hq : q < 4 := by omega
  simp only [State.word32, BitVec.getLsbD_append]
  interval_cases q
  · simp [hr]
  · simp [hr]
  · simp [hr, Nat.sub_sub, show ¬ 16 + r < 8 by omega, show ¬ 16 + r - 8 < 8 by omega]
  · simp [hr, Nat.sub_sub, show ¬ 24 + r < 8 by omega, show ¬ 24 + r - 8 < 8 by omega,
      show ¬ 24 + r - 16 < 8 by omega]

/-- Settles O50: bits `i mod 32` of the word and `i mod 8` of the byte are the same bit. -/
theorem streamBitInWord : Obligations.StreamBitInWord := by
  intro i s hi hidle
  have hbuf : inBuffer (0x02000 + 4 * (i / 32)) :=
    inBuffer_of_range .bits (by simp [Buffer.base]) (by
      simp only [Buffer.base, Buffer.size, Config.bitsCap]
      omega)
  rw [rdata_hostRead_ofNat hidle (by omega) hbuf, word32_getLsbD s _ (Nat.mod_lt i (by decide)),
    State.bit]
  have hbyte : Buffer.bits.base + i / 8 = 0x02000 + 4 * (i / 32) + i % 32 / 8 := by
    rw [Buffer.base]
    omega
  rw [hbyte, Nat.mod_mod_of_dvd i (by decide)]

/-! ### While a command is pending -/

/-- A configuration write while a command is pending is refused (20_memory R110). -/
theorem configWrite_of_pending {s : State} {w : Word} (h : s.engine = .pending w)
    (f : HostConfig → HostConfig) : s.configWrite f = s.flagConflict := by
  simp [State.configWrite, busy_of_pending h]

/-- The registers of the configuration other than CTRL, whose write may be a soft reset (20_memory R110). -/
def Reg.config : Reg → Bool
  | .cfg0 | .cfg1 | .epsLo | .epsHi | .gridK => true
  | _ => false

/-- The addresses of those registers (10_state R42). -/
theorem exists_config_of_addr :
    ∀ n ∈ [0x020, 0x024, 0x028, 0x02C, 0x030], ∃ r ∈ Reg.list, n = r.offset ∧ r.config = true := by
  decide

/-- A write of a register of the configuration while a command is pending (20_memory R110). -/
theorem writeReg_config_of_pending {s : State} {w : Word} (hp : s.engine = .pending w) {r : Reg}
    (h : r.config = true) (v : Word) : s.writeReg r v = s.flagConflict := by
  cases r with
  | cfg0 | cfg1 | epsLo | epsHi | gridK =>
    unfold State.writeReg
    exact configWrite_of_pending hp _
  | _ => cases h

/-- A soft reset by a CTRL write (10_state R44). -/
theorem writeReg_ctrl_of_reset {v : Word} (h : v.getLsbD 31 = true) (s : State) :
    s.writeReg .ctrl v = softReset s := by
  rw [State.writeReg, h]
  rfl

/-- Settles O52, row by row. -/
theorem pendingAccessTable : Obligations.PendingAccessTable := by
  intro w v a s hp h4
  refine ⟨?read, ?status, ?irqEn, ?reset, ?cmd, ?readOnly, ?config, ?buffer⟩
  case read => exact fun r ha => hostRead_of_reg ha s
  case status => exact fun ha => hostWrite_of_reg (r := .status) (congrArg BitVec.toNat ha) v s
  case irqEn => exact fun ha => hostWrite_of_reg (r := .irqEn) (congrArg BitVec.toNat ha) v s
  case reset =>
    intro ha h31
    rw [hostWrite_of_reg (r := .ctrl) (congrArg BitVec.toNat ha), writeReg_ctrl_of_reset h31]
  case cmd =>
    intro ha
    rw [hostWrite_of_reg (r := .cmd) (congrArg BitVec.toNat ha)]
    exact writeReg_cmd_of_pending hp v
  case readOnly =>
    intro ha
    obtain ⟨r, hr, hro⟩ := exists_readOnly_of_addr h4 ha
    rw [hostWrite_of_reg hr, writeReg_of_readOnly hro]
  case config =>
    rintro (ha | ⟨ha, h31⟩)
    · obtain ⟨r, -, hr, hc⟩ := exists_config_of_addr _ ha
      rw [hostWrite_of_reg hr]
      exact writeReg_config_of_pending hp hc v
    · rw [hostWrite_of_reg (r := .ctrl) (congrArg BitVec.toNat ha), writeReg_ctrl_of_bit31 h31]
      exact configWrite_of_pending hp _
  case buffer =>
    exact fun hbuf => ⟨hostRead_buffer_of_pending h4 hbuf hp, hostWrite_buffer_of_pending h4 hbuf hp v⟩

/-! ### What a pending command will read -/

/-- The values that a pending command will read are the same: its word, CFG_VALID, the two configurations
and memory (20_memory R110). -/
def OperandsKept (s t : State) : Prop :=
  t.engine = s.engine ∧ t.status.cfgValid = s.status.cfgValid ∧ t.cfg = s.cfg ∧
    t.active = s.active ∧ t.mem = s.mem ∧ t.epochs = s.epochs

/-- Flags other than CFG_VALID, IRQ_EN and the read data are no operands. -/
theorem operandsKept_of_flags {s : State} {st : Status} (h : st.cfgValid = s.status.cfgValid)
    (e : IrqEnable) (d : Word) : OperandsKept s { s with status := st, irqEn := e, rdata := d } :=
  ⟨rfl, h, rfl, rfl, rfl, rfl⟩

/-- An address that reaches a register is that register's (10_state R42). -/
theorem offset_of_target {a : Addr} {r : Reg} (h : target a = .reg r) : a.toNat = r.offset := by
  unfold target at h
  split at h
  · cases h
  · split at h
    next r' hr =>
      cases h
      have hoff := List.find?_some hr
      exact (beq_iff_eq.1 hoff).symm
    next => split at h <;> cases h

/-- A read while a command is pending keeps its operands (20_memory R110). -/
theorem hostRead_operandsKept {s : State} {w : Word} (hp : s.engine = .pending w) (a : Addr) :
    OperandsKept s (hostRead a s) := by
  cases ht : target a with
  | reg r =>
    rw [hostRead_of_reg (offset_of_target ht)]
    exact operandsKept_of_flags rfl _ _
  | buffer =>
    obtain ⟨h4, hbuf⟩ := buffer_of_target ht
    rw [hostRead_buffer_of_pending h4 hbuf hp]
    exact operandsKept_of_flags rfl _ _
  | nothing =>
    rw [hostRead_of_nothing ht]
    exact operandsKept_of_flags rfl _ _

/-- A register write but a soft reset, while a command is pending, keeps its operands (20_memory R110). -/
theorem writeReg_operandsKept {s : State} {w : Word} (hp : s.engine = .pending w) {r : Reg} {v : Word}
    (h : r = .ctrl → v.getLsbD 31 = false) : OperandsKept s (s.writeReg r v) := by
  cases r with
  | ctrl =>
    rw [writeReg_ctrl_of_bit31 (h rfl), configWrite_of_pending hp]
    exact operandsKept_of_flags rfl _ _
  | cfg0 | cfg1 | epsLo | epsHi | gridK =>
    rw [writeReg_config_of_pending hp rfl]
    exact operandsKept_of_flags rfl _ _
  | cmd =>
    rw [writeReg_cmd_of_pending hp]
    exact operandsKept_of_flags rfl _ _
  | _ => exact operandsKept_of_flags rfl _ _

/-- A write but a soft reset, while a command is pending, keeps its operands (20_memory R110). -/
theorem hostWrite_operandsKept {s : State} {w : Word} (hp : s.engine = .pending w) {a : Addr} {v : Word}
    (h : ¬(a = 0x00008 ∧ v.getLsbD 31 = true)) : OperandsKept s (hostWrite a v s) := by
  cases ht : target a with
  | reg r =>
    have ha := offset_of_target ht
    rw [hostWrite_of_reg ha]
    refine writeReg_operandsKept hp fun hr => ?_
    have hctrl : a = 0x00008 := BitVec.eq_of_toNat_eq (by rw [ha, hr]; rfl)
    exact Bool.eq_false_iff.2 fun h31 => h ⟨hctrl, h31⟩
  | buffer =>
    obtain ⟨h4, hbuf⟩ := buffer_of_target ht
    rw [hostWrite_buffer_of_pending h4 hbuf hp]
    exact operandsKept_of_flags rfl _ _
  | nothing =>
    rw [hostWrite_of_nothing ht]
    exact operandsKept_of_flags rfl _ _

/-- Settles O53, by what the address reaches. -/
theorem pendingOperandsFrozen : Obligations.PendingOperandsFrozen := fun _ _ hp =>
  ⟨hostRead_operandsKept hp, fun _ _ => hostWrite_operandsKept hp⟩

end Sys2Proof.Machine
end

section
/-! PROOF. Decoder and encoder agree (30_encoding R140 to R146): the opcode selects the command, ARG selects its
operand or is rejected, and a pending word that is no command completes with its error (R143, R144). -/

namespace Sys2Proof

open Machine

/-! ### The command of an opcode and an argument -/

/-- The source that SRC selects (30_encoding R141). -/
def Src.ofArg (a : BitVec 24) : Src := if a.getLsbD 0 then .eq else .freq

/-- ARG is one that the command's format accepts (30_encoding R141). -/
def Instr.acceptsArg (i : Instr) (a : BitVec 24) : Bool :=
  match i with
  | .nop | .config | .ifftCp | .chest | .equalize => decide (a = 0)
  | .extractData _ | .extractPilots _ => decide (a.toNat ≤ 1)
  | .precode _ | .decode _ | .map _ | .cpFft _ | .qamMap _ | .qamDemap _ | .qamDetect _ => true

/-- The command of the same opcode whose operand is read from `a` (30_encoding R141, R142). -/
def Instr.withArg (i : Instr) (a : BitVec 24) : Instr :=
  match i with
  | .precode _ => .precode a.toNat
  | .decode _ => .decode a.toNat
  | .map _ => .map a.toNat
  | .extractData _ => .extractData (.ofArg a)
  | .extractPilots _ => .extractPilots (.ofArg a)
  | .cpFft _ => .cpFft a.toNat
  | .qamMap _ => .qamMap a.toNat
  | .qamDemap _ => .qamDemap a.toNat
  | .qamDetect _ => .qamDetect a.toNat
  | i => i

/-- One command for each opcode of 30_encoding R143. -/
def commandTable : List Instr :=
  [.nop, .config, .precode 0, .decode 0, .map 0, .extractData .freq, .extractPilots .freq, .ifftCp,
    .cpFft 0, .chest, .equalize, .qamMap 0, .qamDemap 0, .qamDetect 0]

/-- A word is its opcode followed by its ARG (30_encoding R140). -/
theorem opcField_append_argField (w : Word) : opcField w ++ argField w = w := by
  rw [opcField, argField, BitVec.extractLsb'_append_extractLsb'_eq_extractLsb' (by rfl)]
  exact BitVec.extractLsb'_eq_self

@[simp] theorem opcField_encode (i : Instr) : opcField (encode i) = i.opcode := Laws.opcField_append _ _

@[simp] theorem argField_encode (i : Instr) : argField (encode i) = i.arg := Laws.argField_append _ _

@[simp] theorem Src.ofArg_arg (src : Src) : Src.ofArg src.arg = src := by cases src <;> rfl

/-- An ARG of a source is the one that its SRC bit gives. -/
theorem Src.arg_ofArg {a : BitVec 24} (h : a.toNat ≤ 1) : (Src.ofArg a).arg = a := by
  have h01 : a = 0 ∨ a = 1 := by bv_omega
  obtain rfl | rfl := h01 <;> rfl

/-- A count that fits its field is read back from it (30_encoding R142). -/
theorem toNat_ofNat_of_lt_cntLimit {cnt : Nat} (h : cnt < cntLimit) : (BitVec.ofNat 24 cnt).toNat = cnt := by
  rw [BitVec.toNat_ofNat]
  exact Nat.mod_eq_of_lt h

@[simp] theorem Instr.opcode_withArg (i : Instr) (a : BitVec 24) : (i.withArg a).opcode = i.opcode := by
  cases i <;> rfl

theorem Instr.arg_withArg {i : Instr} {a : BitVec 24} (h : i.acceptsArg a = true) : (i.withArg a).arg = a := by
  cases i with
  | nop | config | ifftCp | chest | equalize => exact (of_decide_eq_true h).symm
  | extractData | extractPilots => exact Src.arg_ofArg (of_decide_eq_true h)
  | precode | decode | map | cpFft | qamMap | qamDemap | qamDetect =>
    exact (BitVec.ofNat_toNat _ a).trans (BitVec.setWidth_eq a)

theorem Instr.wellFormed_withArg (i : Instr) (a : BitVec 24) : (i.withArg a).wellFormed = true := by
  cases i with
  | nop | config | ifftCp | chest | equalize | extractData | extractPilots => rfl
  | precode | decode | map | cpFft | qamMap | qamDemap | qamDetect => exact decide_eq_true a.isLt

theorem Instr.acceptsArg_arg (i : Instr) : i.acceptsArg i.arg = true := by
  cases i with
  | extractData src | extractPilots src => cases src <;> rfl
  | _ => rfl

/-- A well-formed command is the one that its opcode and its argument select. -/
theorem Instr.withArg_arg {i : Instr} (h : i.wellFormed = true) : i.withArg i.arg = i := by
  cases i with
  | nop | config | ifftCp | chest | equalize => rfl
  | extractData src | extractPilots src => exact congrArg _ (Src.ofArg_arg src)
  | precode | decode | map | cpFft | qamMap | qamDemap | qamDetect =>
    exact congrArg _ (toNat_ofNat_of_lt_cntLimit (of_decide_eq_true h))

/-! ### The decoder -/

/-- Bits 23:1 of a word are 0 when its ARG is 0 or 1. -/
theorem zeroBits_iff (w : Word) : w.extractLsb' 1 23 = 0 ↔ (argField w).toNat ≤ 1 := by
  rw [← BitVec.toNat_inj]
  simp only [argField, BitVec.extractLsb'_toNat, Nat.shiftRight_eq_div_pow,
    BitVec.ofNat_eq_ofNat, BitVec.toNat_ofNat]
  omega

/-- Format S, by ARG alone. -/
theorem decodeS_eq (w : Word) (f : Src → Instr) :
    decodeS w f = if (argField w).toNat ≤ 1 then .ok (f (.ofArg (argField w)))
      else .error (.reservedArg (argField w)) := by
  simp only [decodeS, zeroBits_iff]
  simp [Src.ofArg, argField]

/-- What the decoder does with a word of a command's opcode. -/
theorem decode_of_opcode {w : Word} {i : Instr} (h : opcField w = i.opcode) :
    decode w = if i.acceptsArg (argField w) then .ok (i.withArg (argField w))
      else .error (.reservedArg (argField w)) := by
  cases i with
  | nop | config | ifftCp | chest | equalize =>
    simp [decode, h, Instr.opcode, Instr.acceptsArg, Instr.withArg, decodeZ]
  | extractData | extractPilots =>
    simp [decode, h, Instr.opcode, Instr.acceptsArg, Instr.withArg, decodeS_eq]
  | precode | decode | map | cpFft | qamMap | qamDemap | qamDetect =>
    simp [decode, h, Instr.opcode, Instr.acceptsArg, Instr.withArg, decodeC]

/-- An opcode of the table is the opcode of a command (30_encoding R143). -/
theorem exists_opcode_eq {w : Word} (h : (opcField w).toNat ∈ commandTable.map (·.opcode.toNat)) :
    ∃ i : Instr, opcField w = i.opcode := by
  obtain ⟨i, -, hi⟩ := List.mem_map.1 h
  exact ⟨i, BitVec.eq_of_toNat_eq hi.symm⟩

/-- A word of any other opcode is rejected with its opcode (30_encoding R143). -/
theorem decode_of_not_mem {w : Word} (h : (opcField w).toNat ∉ commandTable.map (·.opcode.toNat)) :
    decode w = .error (.illegalOpcode (opcField w)) := by
  unfold decode
  split
  case h_15 => rfl
  all_goals next hop => exact absurd (hop ▸ by decide) h

/-- The error of a rejected word carries the word's own field (30_encoding R144). -/
theorem decodeError_eq {w : Word} {e : DecodeError} (h : decode w = .error e) :
    e = .illegalOpcode (opcField w) ∨ e = .reservedArg (argField w) := by
  by_cases hop : (opcField w).toNat ∈ commandTable.map (·.opcode.toNat)
  · obtain ⟨i, hi⟩ := exists_opcode_eq hop
    rw [decode_of_opcode hi] at h
    split at h
    · cases h
    · exact .inr (Except.error.inj h).symm
  · rw [decode_of_not_mem hop] at h
    exact .inl (Except.error.inj h).symm

/-- The inadmissible arguments, by format: a format-Z ARG that is not 0, a format-S ARG above 1
(30_encoding R143). -/
theorem Instr.acceptsArg_iff (i : Instr) (a : BitVec 24) : i.acceptsArg a = true ↔
    ¬(i.opcode.toNat ∈ [0x00, 0x01, 0x30, 0x40, 0x41] ∧ a.toNat ≠ 0) ∧
      ¬(i.opcode.toNat ∈ [0x21, 0x22] ∧ 1 < a.toNat) := by
  have hz : a = 0#24 ↔ a.toNat = 0 := BitVec.toNat_inj.symm
  cases i with
  | nop | config | ifftCp | chest | equalize => simp [Instr.acceptsArg, Instr.opcode, hz]
  | extractData | extractPilots => simp [Instr.acceptsArg, Instr.opcode]
  | precode | decode | map | cpFft | qamMap | qamDemap | qamDetect => simp [Instr.acceptsArg, Instr.opcode]

/-! ### The statements -/

/-- Settles O1: the word has the command's opcode, so the decoder reads the command's own argument. -/
theorem decodeOfEncode : Obligations.DecodeOfEncode := by
  intro i hwf
  rw [decode_of_opcode (opcField_encode i), argField_encode, if_pos i.acceptsArg_arg, Instr.withArg_arg hwf]

/-- Settles O2: with a command's opcode, the word is rejected or is the word of that command with its ARG. -/
theorem wordsDecodeOrAreRejected : Obligations.WordsDecodeOrAreRejected := by
  intro w opc arg
  split
  case isTrue hop => exact decode_of_not_mem hop
  case isFalse hop =>
    obtain ⟨i, hi⟩ := exists_opcode_eq (not_not.1 hop)
    have haccepts := i.acceptsArg_iff (argField w)
    rw [← hi] at haccepts
    rw [decode_of_opcode hi]
    split
    case isTrue hz => exact if_neg fun h => (haccepts.1 h).1 hz
    case isFalse hz =>
      split
      case isTrue hs => exact if_neg fun h => (haccepts.1 h).2 hs
      case isFalse hs =>
        have ha := haccepts.2 ⟨hz, hs⟩
        refine ⟨i.withArg (argField w), if_pos ha, ?_, i.wellFormed_withArg _⟩
        rw [encode, Instr.opcode_withArg, Instr.arg_withArg ha, ← hi, opcField_append_argField]

/-- Settles O3, each word by evaluating the decoder. -/
theorem exampleWordsDecode : Obligations.ExampleWordsDecode :=
  ⟨rfl, rfl, rfl, rfl, rfl, rfl, rfl, rfl⟩

/-- Settles O5: the step rejects the word, and the field its error carries is the word's own. -/
theorem stepRejectsOtherWords : Obligations.StepRejectsOtherWords := by
  intro s w hw hs
  have hstep {e : DecodeError} (hd : decode w = .error e) : step s = .next (s.rejectWord w e) :=
    (step_of_nil hs).trans (engineTurn_of_error hw hd)
  refine ⟨fun opc hd => ?_, fun arg hd => ?_⟩
  · obtain rfl : opc = opcField w := by simpa using decodeError_eq hd
    exact hstep hd
  · obtain rfl : arg = argField w := by simpa using decodeError_eq hd
    exact hstep hd

end Sys2Proof
end

section
/-! PROOF. Every step keeps the invariant (10_state R81): the statement of one step, beside the one of whole
histories. -/

namespace Sys2Proof.Machine

/-- Settles O6: the next state of a step is the one that keeps the invariant. -/
theorem stepKeepsInvariant : Obligations.StepKeepsInvariant := by
  intro s t h hstep
  obtain ⟨t', hstep', hinv⟩ := step_keeps_inv h
  cases hstep.symm.trans hstep'
  exact hinv

end Sys2Proof.Machine
end

section
/-! PROOF. NOP and CONFIG (40_config_grid R170 to R172): the outcome of each check of the shadow in its order,
and the state that a command without a store completes in. -/

namespace Sys2Proof.Machine

/-! ### The checks of the shadow -/

section
variable {c : HostConfig}

theorem check_of_mod (h : c.mod = 3) : c.check = some (.cfgMod, 3) := by
  simp [HostConfig.check, h]

theorem check_of_log2n (hmod : c.mod ≠ 3) (h : c.log2n.toNat < 3 ∨ 11 < c.log2n.toNat) :
    c.check = some (.cfgLog2n, c.log2n.toNat) := by
  simp only [HostConfig.check, if_neg hmod]
  exact if_pos h

/-- Past the checks of MOD and LOG2N those of NC and CP remain (40_config_grid R171). -/
theorem check_of_log2n_legal (hmod : c.mod ≠ 3) (h1 : 3 ≤ c.log2n.toNat) (h2 : c.log2n.toNat ≤ 11) :
    c.check = if c.nc.toNat < 2 ∨ 2 ^ c.log2n.toNat < c.nc.toNat then some (.cfgNc, c.nc.toNat)
      else if 2 ^ c.log2n.toNat < c.cp.toNat then some (.cfgCp, c.cp.toNat) else none := by
  have hlog : ¬(c.log2n.toNat < 3 ∨ 11 < c.log2n.toNat) := by omega
  simp only [HostConfig.check, if_neg hmod]
  exact if_neg hlog

/-- A shadow within the bounds of 40_config_grid R171 passes the checks. -/
theorem check_eq_none (hmod : c.mod ≠ 3) (h1 : 3 ≤ c.log2n.toNat) (h2 : c.log2n.toNat ≤ 11)
    (h3 : 2 ≤ c.nc.toNat) (h4 : c.nc.toNat ≤ 2 ^ c.log2n.toNat) (h5 : c.cp.toNat ≤ 2 ^ c.log2n.toNat) :
    c.check = none := by
  rw [check_of_log2n_legal hmod h1 h2, if_neg (by omega), if_neg (by omega)]

end

theorem exec_config (s : State) : exec .config s = execConfig s := rfl

/-- CONFIG raises the error of the first check that fails (40_config_grid R171). -/
theorem config_raises {s : State} {code : ErrCode} {info : Nat} (h : s.cfg.check = some (code, info)) :
    Raises 0x01 code info s (exec .config s) := by
  rw [exec_config, execConfig, h]
  rfl

/-- Settles O12, each clause by the check that fails first. -/
theorem configRejectsIllegalShadow : Obligations.ConfigRejectsIllegalShadow := by
  intro s lg nc cp
  refine ⟨fun hmod => ?_, fun hmod hlg => ?_, fun hmod h1 h2 hnc => ?_, fun hmod h1 h2 h3 h4 hcp => ?_⟩
  · exact config_raises (check_of_mod hmod)
  · exact config_raises (check_of_log2n hmod hlg)
  · exact config_raises ((check_of_log2n_legal hmod h1 h2).trans (if_pos hnc))
  · refine config_raises ((check_of_log2n_legal hmod h1 h2).trans ?_)
    rw [if_neg (not_or.2 ⟨h3.not_gt, h4.not_gt⟩), if_pos hcp]

/-! ### Completion -/

/-- The completion of a command with an effect (60_exceptions R310, 10_state R63). -/
theorem completed_withEffect (s : State) (e : Effect) (op : BitVec 8) {n : Nat} (hn : n < 2 ^ 24) :
    Completed op n s ((s.withEffect e).complete op n) :=
  { cmdLast := rfl, irqEn := rfl, cfg := rfl, cmdOvr := rfl, hostConflict := rfl, busErr := rfl
    epochs := rfl, sched := rfl, rdata := rfl, engine := rfl, errInfo := rfl, done := rfl, err := rfl
    errCode := rfl, lastOp := rfl, outLen := (BitVec.toNat_ofNat n 24).trans (Nat.mod_eq_of_lt hn) }

/-- Settles O16: NOP completes with the effect that changes nothing. -/
theorem nopCompletes : Obligations.NopCompletes := fun s =>
  ⟨_, rfl, completed_withEffect s (.of s) 0x00 (by decide), ⟨rfl, rfl, rfl⟩, rfl, rfl, fun _ => rfl⟩

/-! ### What CONFIG latches -/

/-- The effect of CONFIG with a legal shadow (40_config_grid R171). -/
def State.configEffect (s : State) : Effect :=
  { Effect.of s with active := s.cfg.derive, cfgValid := true }

theorem config_completes {s : State} (h : s.cfg.check = none) :
    exec .config s = .next ((s.withEffect s.configEffect).complete 0x01 0) := by
  rw [exec_config, execConfig, h]
  rfl

/-- GUARD_LEFT, GUARD_RIGHT, DC_INDEX and TIME_LEN of a legal configuration fit their registers
(40_config_grid R172). -/
theorem legal_geometry {a : Active} (h : a.legal) :
    a.guardLeft.toNat = (a.n.toNat - a.nc.toNat) / 2 ∧
      a.guardRight.toNat = a.n.toNat - a.nc.toNat - (a.n.toNat - a.nc.toNat) / 2 ∧
      a.dcIndex.toNat = a.n.toNat / 2 ∧ a.timeLen.toNat = a.n.toNat + a.cp.toNat := by
  have hn := legal_n h
  obtain ⟨-, hn2048, -, -, -, hcp⟩ := legal_ranges h
  have hgl := congrArg (fun x => x.guardLeft.toNat) h.2
  have hgr := congrArg (fun x => x.guardRight.toNat) h.2
  have hdc := congrArg (fun x => x.dcIndex.toNat) h.2
  have htime := congrArg (fun x => x.timeLen.toNat) h.2
  simp only [HostConfig.derive, Active.shadow, Grid.guardLeft, Grid.guardRight, Grid.dc, BitVec.toNat_ofNat,
    ← hn] at hgl hgr hdc htime
  omega

/-- Settles O17: the shadow passes the checks, so CONFIG latches a legal configuration, whose registers
hold the values of R172. -/
theorem configLatchesAndDerives : Obligations.ConfigLatchesAndDerives := by
  intro s n nc g hmod h1 h2 h3 h4 h5
  have hmod3 : s.cfg.mod ≠ 3 := fun h => hmod (by rw [h]; rfl)
  have hcheck : s.cfg.check = none := check_eq_none hmod3 h1 h2 h3 h4 h5
  have hlegal : s.cfg.derive.legal := derive_legal hcheck
  have hn : s.cfg.derive.n.toNat = n := legal_n hlegal
  obtain ⟨hgl, hgr, hdc, htime⟩ := legal_geometry hlegal
  obtain ⟨hM, hP⟩ := legal_counts hlegal
  rw [hn] at hgl hgr hdc htime hM hP
  exact ⟨_, config_completes hcheck, completed_withEffect s s.configEffect 0x01 (by decide), rfl, rfl,
    fun _ => rfl, rfl, rfl, hn, rfl, rfl, rfl, rfl, rfl, legal_bps hlegal, hgl, hgr, hdc, hM, hP, htime⟩

end Sys2Proof.Machine
end

section
/-! PROOF. The resource grid (40_config_grid R172 to R175): membership of each class, the index lists and their
ordinals, and the sizes of the classes, counted over the useful band. -/

namespace Sys2Proof.Machine

/-! ### Membership of the classes -/

section
variable (g : Grid) (k : Nat)

theorem classify_eq_guard_iff :
    g.classify k = .guard ↔ k < g.guardLeft ∨ g.n - g.guardRight ≤ k := by
  unfold Grid.classify
  split_ifs <;> simp only [false_iff, true_iff] <;> omega

theorem classify_eq_dc_iff :
    g.classify k = .dc ↔ g.guardLeft ≤ k ∧ k < g.n - g.guardRight ∧ k = g.dc := by
  unfold Grid.classify
  split_ifs <;> simp only [false_iff, true_iff] <;> omega

theorem classify_eq_pilot_iff :
    g.classify k = .pilot ↔
      g.guardLeft ≤ k ∧ k < g.n - g.guardRight ∧ k ≠ g.dc ∧ (k - g.guardLeft) % 6 = 3 := by
  unfold Grid.classify Config.pilotSpacing
  split_ifs <;> simp only [false_iff, true_iff] <;> omega

end

theorem mem_indices {g : Grid} {c : Carrier} {k : Nat} :
    k ∈ g.indices c ↔ k < g.n ∧ g.classify k = c := by
  simp [Grid.indices]

/-! ### The index lists and the ordinals (40_config_grid R174) -/

theorem indices_pairwise_lt (g : Grid) (c : Carrier) : (g.indices c).Pairwise (· < ·) :=
  List.pairwise_lt_range.filter _

theorem indices_nodup (g : Grid) (c : Carrier) : (g.indices c).Nodup := List.nodup_range.filter _

/-- In the list of its class `k` stands behind the lower subcarriers of the class, which ORD counts. -/
theorem indices_eq_append_cons {g : Grid} {k : Nat} (hk : k < g.n) :
    ∃ above, g.indices (g.classify k) =
      ((List.range k).filter fun k' => g.classify k' == g.classify k) ++ k :: above := by
  obtain ⟨m, hm⟩ := Nat.exists_eq_add_of_lt hk
  have hrange : List.range g.n = List.range k ++ k :: (List.range m).map (k + ·.succ) := by
    rw [hm, Nat.add_assoc, List.range_add, List.range_succ_eq_map, List.map_cons, List.map_map]
    rfl
  rw [Grid.indices, hrange, List.filter_append, List.filter_cons_of_pos (by simp)]
  exact ⟨_, rfl⟩

theorem ordinal_lt_count {g : Grid} {k : Nat} (hk : k < g.n) : g.ordinal k < g.count (g.classify k) := by
  obtain ⟨above, h⟩ := indices_eq_append_cons hk
  simp [Grid.count, h, Grid.ordinal]

theorem indices_getElem_ordinal {g : Grid} {k : Nat} (hk : k < g.n) :
    (g.indices (g.classify k))[g.ordinal k]'(ordinal_lt_count hk) = k := by
  obtain ⟨above, h⟩ := indices_eq_append_cons hk
  simp [h, Grid.ordinal]

/-- The ordinal of an entry of an index list is its place, as no other entry equals it. -/
theorem ordinal_indices_getElem {g : Grid} {c : Carrier} {i : Nat} (h : i < g.count c) :
    g.ordinal ((g.indices c)[i]'h) = i := by
  obtain ⟨hk, hc⟩ := mem_indices.1 (List.getElem_mem h)
  have hentry := indices_getElem_ordinal hk
  simp only [hc] at hentry
  exact (indices_nodup g c).getElem_inj_iff.1 hentry

/-- Settles O20: the lists are filtered from an ascending one, and ORD counts the lower entries. -/
theorem ordinalInvertsIndex : Obligations.OrdinalInvertsIndex := by
  refine fun g c => ⟨indices_pairwise_lt g c, fun i h => ⟨?_, ordinal_indices_getElem h⟩, fun k hk =>
    ⟨ordinal_lt_count hk, ?_⟩⟩
  · exact (mem_indices.1 (List.getElem_mem h)).2
  · rw [List.getD_eq_getElem _ _ (ordinal_lt_count hk), indices_getElem_ordinal hk]

/-! ### The sizes of the classes -/

theorem count_eq_natCount (g : Grid) (c : Carrier) :
    g.count c = Nat.count (fun k => g.classify k = c) g.n :=
  List.countP_eq_length_filter.symm

/-- Each of the first `m` indices is counted in one class. -/
theorem natCount_classes (g : Grid) (m : Nat) :
    Nat.count (fun k => g.classify k = .data) m + Nat.count (fun k => g.classify k = .pilot) m +
      Nat.count (fun k => g.classify k = .dc) m + Nat.count (fun k => g.classify k = .guard) m = m := by
  induction m with
  | zero => rfl
  | succ m ih =>
    simp only [Nat.count_succ]
    cases g.classify m <;> simp <;> omega

/-- The offsets 3, 9, 15, … below `m` but `d` (40_config_grid R172). -/
theorem natCount_pilotOffsets (d m : Nat) :
    Nat.count (fun o => o ≠ d ∧ o % 6 = 3) m + (if d < m ∧ d % 6 = 3 then 1 else 0) = (m + 2) / 6 := by
  induction m with
  | zero => simp
  | succ m ih =>
    rw [Nat.count_succ]
    split_ifs at ih ⊢ <;> omega

section
variable {g : Grid}

/-- The guards and the useful band make up the grid (40_config_grid R172). -/
theorem guardLeft_add_nc_add_guardRight (hn : g.nc ≤ g.n) : g.guardLeft + g.nc + g.guardRight = g.n := by
  unfold Grid.guardRight Grid.guardLeft
  omega

/-- DC lies in the useful band (40_config_grid R172). -/
theorem dc_in_band (h2 : 2 ≤ g.nc) (hn : g.nc ≤ g.n) :
    g.guardLeft ≤ g.dc ∧ g.dc < g.n - g.guardRight := by
  unfold Grid.guardRight Grid.guardLeft Grid.dc
  omega

theorem indices_dc (h2 : 2 ≤ g.nc) (hn : g.nc ≤ g.n) : g.indices .dc = [g.dc] := by
  obtain ⟨hlow, hhigh⟩ := dc_in_band h2 hn
  refine List.perm_singleton.1
    ((List.perm_ext_iff_of_nodup (indices_nodup g .dc) (List.nodup_singleton _)).2 fun k => ?_)
  rw [mem_indices, classify_eq_dc_iff, List.mem_singleton]
  omega

/-- A class is counted over the guards on the left, the useful band and the guards on the right. -/
theorem count_eq_add (c : Carrier) (hn : g.nc ≤ g.n) :
    g.count c = Nat.count (fun k => g.classify k = c) g.guardLeft +
      Nat.count (fun o => g.classify (g.guardLeft + o) = c) g.nc +
      Nat.count (fun k => g.classify (g.guardLeft + g.nc + k) = c) g.guardRight := by
  rw [count_eq_natCount, ← Nat.count_add, ← Nat.count_add, guardLeft_add_nc_add_guardRight hn]

/-- The guards are both outer parts and nothing of the band (40_config_grid R175). -/
theorem count_guard (hn : g.nc ≤ g.n) : g.count .guard = g.guardLeft + g.guardRight := by
  have hsum := guardLeft_add_nc_add_guardRight hn
  have hleft := Nat.count_of_forall (p := fun k => g.classify k = .guard) (n := g.guardLeft)
    fun k hk => (classify_eq_guard_iff g k).2 (.inl hk)
  have hband := Nat.count_of_forall_not (p := fun o => g.classify (g.guardLeft + o) = .guard) (n := g.nc)
    fun o ho => by rw [classify_eq_guard_iff]; omega
  have hright := Nat.count_of_forall (p := fun k => g.classify (g.guardLeft + g.nc + k) = .guard)
    (n := g.guardRight) fun k _ => (classify_eq_guard_iff g _).2 (.inr (by omega))
  rw [count_eq_add .guard hn, hleft, hband, hright, Nat.add_zero]

theorem count_dc (h2 : 2 ≤ g.nc) (hn : g.nc ≤ g.n) : g.count .dc = 1 := by
  rw [Grid.count, indices_dc h2 hn, List.length_singleton]

/-- P: the pilot offsets of the band, less the one that DC takes (40_config_grid R172). -/
theorem count_pilot_add (h2 : 2 ≤ g.nc) (hn : g.nc ≤ g.n) :
    g.count .pilot + (if (g.dc - g.guardLeft) % 6 = 3 then 1 else 0) = (g.nc + 2) / 6 := by
  have hsum := guardLeft_add_nc_add_guardRight hn
  obtain ⟨hlow, hhigh⟩ := dc_in_band h2 hn
  have hleft := Nat.count_of_forall_not (p := fun k => g.classify k = .pilot) (n := g.guardLeft)
    fun k hk => by rw [classify_eq_pilot_iff]; omega
  have hband : Nat.count (fun o => g.classify (g.guardLeft + o) = .pilot) g.nc =
      Nat.count (fun o => o ≠ g.dc - g.guardLeft ∧ o % 6 = 3) g.nc := by
    refine List.countP_congr fun o ho => ?_
    rw [List.mem_range] at ho
    simp only [decide_eq_true_eq, classify_eq_pilot_iff, Nat.add_sub_cancel_left]
    omega
  have hright := Nat.count_of_forall_not (p := fun k => g.classify (g.guardLeft + g.nc + k) = .pilot)
    (n := g.guardRight) fun k _ => by rw [classify_eq_pilot_iff]; omega
  have hoffsets := natCount_pilotOffsets (g.dc - g.guardLeft) g.nc
  rw [count_eq_add .pilot hn, hleft, hband, hright]
  have hdc : g.dc - g.guardLeft < g.nc := by omega
  simpa only [hdc, true_and, Nat.zero_add, Nat.add_zero] using hoffsets

/-- M and P are what the guards and DC leave of N (40_config_grid R175). -/
theorem count_data_add_count_pilot (h2 : 2 ≤ g.nc) (hn : g.nc ≤ g.n) :
    g.count .data + g.count .pilot + 1 = g.nc := by
  have hsum := guardLeft_add_nc_add_guardRight hn
  have hall := natCount_classes g g.n
  simp only [← count_eq_natCount] at hall
  rw [count_dc h2 hn, count_guard hn] at hall
  omega

end

/-- Settles O18: P by its offsets in the band, and M by what P and DC leave of it. -/
theorem gridClosedForms : Obligations.GridClosedForms := by
  intro n nc _ h2 hn g
  have hP : g.count .pilot + (if (n / 2 - (n - nc) / 2) % 6 = 3 then 1 else 0) = (nc + 2) / 6 :=
    count_pilot_add h2 hn
  have hM : g.count .data + g.count .pilot + 1 = nc := count_data_add_count_pilot h2 hn
  refine ⟨?_, ?_, ?_⟩ <;> omega

/-- Settles O19: (a) by the class of the index, (b) to (d) by the lemmas on DC, the guards and the sizes, (e) by
the membership of the pilots. -/
theorem gridInvariants : Obligations.GridInvariants := by
  intro n nc heven h2 hn g gl gr
  have hM : g.count .data + g.count .pilot + 1 = nc := count_data_add_count_pilot h2 hn
  have hguard : g.count .guard = gl + gr := count_guard hn
  have hgl : gl = (n - nc) / 2 := rfl
  have hgr : gr = n - nc - gl := rfl
  refine ⟨fun k hk => ?_, indices_dc h2 hn, ⟨by omega, fun k hk => ?_, by omega, by omega⟩,
    ⟨by omega, by omega⟩, fun k => ?_⟩
  · exact ⟨g.classify k, mem_indices.2 ⟨hk, rfl⟩, fun c hc => (mem_indices.1 hc).2.symm⟩
  · rw [mem_indices, classify_eq_guard_iff]
    exact and_iff_right hk
  · have hpilot : g.classify k = .pilot ↔ gl ≤ k ∧ k < n - gr ∧ k ≠ n / 2 ∧ (k - gl) % 6 = 3 :=
      classify_eq_pilot_iff g k
    have hindex : k ∈ g.indices .pilot ↔ k < n ∧ g.classify k = .pilot := mem_indices
    rw [hindex, hpilot]
    constructor
    · rintro ⟨-, hlow, hhigh, hdc, hoffset⟩
      exact ⟨hhigh, hdc, (k - gl) / 6, by omega⟩
    · rintro ⟨hhigh, hdc, q, rfl⟩
      omega

end Sys2Proof.Machine
end

section
/-! PROOF. PRECODE and DECODE (41_precoder R200 to R202): the outcome of each check of the rule that they share,
the store of the transform, and the identity with SC-FDM disabled. -/

namespace Sys2Proof.Machine

/-! ### What a completed store leaves -/

/-- The elements of a store read back (00_scope R14). -/
theorem elems_writeElems (s : State) (b : Buffer) {zs : List Cplx} {n : Nat} (hn : zs.length = n) :
    (s.writeElems b zs).elems b n = zs := by
  subst hn
  refine List.ext_getElem (elems_length _ _ _) fun i _ hi => ?_
  simp [State.elems, elem_writeElems s b zs i hi, hi]

/-- Completion changes no byte (60_exceptions R310). -/
@[simp] theorem complete_byte (s : State) (op : BitVec 8) (n x : Nat) :
    (s.complete op n).byte x = s.byte x := byte_congr rfl rfl x

/-- Completion changes no elements (60_exceptions R310). -/
@[simp] theorem complete_elems (s : State) (op : BitVec 8) (n : Nat) (b : Buffer) (k : Nat) :
    (s.complete op n).elems b k = s.elems b k := by
  simp [State.elems]

/-- A command that stores elements and completes changes the completion fields and the bytes of the store
(60_exceptions R310, 10_state R63). -/
theorem completed_store (s : State) (b : Buffer) (zs : List Cplx) (op : BitVec 8) {n : Nat}
    (hn : n < 2 ^ 24) {t : State} (ht : (s.writeElems b zs).complete op n = t) :
    Completed op n s t ∧ ConfigKept s t ∧ OnlyOutLen s t ∧ t.draw = s.draw ∧
      SameBytesOutside b.base (16 * zs.length) s t := by
  subst ht
  refine ⟨completed_withEffect s (.of (s.writeElems b zs)) op hn, ⟨rfl, rfl, rfl⟩, rfl, rfl,
    fun x hx => ?_⟩
  rw [complete_byte, byte_writeElems_outside s b zs x hx]

/-! ### The shared rule of PRECODE and DECODE -/

theorem exec_precode (cnt : Nat) (s : State) : exec (.precode cnt) s = .next (precoder .fwd 0x10 cnt s) :=
  rfl

theorem exec_decode (cnt : Nat) (s : State) : exec (.decode cnt) s = .next (precoder .inv 0x11 cnt s) :=
  rfl

section
variable {s : State} {cnt : Nat} (dir : Dir) (op : BitVec 8)

theorem precoder_of_notConfigured (hv : s.status.cfgValid = false) :
    precoder dir op cnt s = s.raiseError op .notConfigured 0 := by
  simp [precoder, hv]

/-- CAPACITY is checked before SCFDM_EN is looked at (41_precoder R200 to R202). -/
theorem precoder_of_capacity (hv : s.status.cfgValid = true) (hc : Config.symCap < cnt) :
    precoder dir op cnt s = s.raiseError op .capacity Config.symCap := by
  simp [precoder, hv, hc]

/-- With SC-FDM disabled and a count within capacity the rule is the completion alone (41_precoder R202). -/
theorem precoder_of_disabled (he : s.cfg.scfdmEn = false) (hv : s.status.cfgValid = true)
    (hc : cnt ≤ Config.symCap) : precoder dir op cnt s = s.complete op cnt := by
  simp [precoder, he, hv, not_lt.2 hc]

end

/-- A command of the shared rule on M symbols with SC-FDM enabled (41_precoder R200, R201). -/
theorem precoder_transforms {i : Instr} {dir : Dir} {op : BitVec 8} {s : State}
    (hi : exec i s = .next (precoder dir op s.M s)) (hs : s.configured) (he : s.cfg.scfdmEn = true) :
    ∃ t, exec i s = .next t ∧ Completed op s.M s t ∧ ConfigKept s t ∧ OnlyOutLen s t ∧
      t.draw = s.draw ∧ SameBytesOutside Buffer.sym.base (16 * s.M) s t ∧
      t.elems .sym s.M = xform dir s.M (s.elems .sym s.M) := by
  have hcap : s.M ≤ Config.symCap := M_le_symCap hs.2
  have hlen : (xform dir s.M (s.elems .sym s.M)).length = s.M := xform_length _ _ _
  obtain ⟨hdone, hconfig, hresults, hdraw, hbytes⟩ :=
    completed_store s .sym _ op (hcap.trans_lt (by decide)) rfl
  rw [hlen] at hbytes
  rw [precoder_of_enabled dir op hs.1 he hcap] at hi
  refine ⟨_, hi, hdone, hconfig, hresults, hdraw, hbytes, ?_⟩
  rw [complete_elems, elems_writeElems s .sym hlen]

/-- A command of the shared rule with SC-FDM disabled and a count within capacity: its result is the
completion, whatever the buffers hold (41_precoder R202). -/
theorem precoder_disabled_completes {i : Instr} {dir : Dir} {op : BitVec 8} {cnt : Nat} {s : State}
    (hi : ∀ s, exec i s = .next (precoder dir op cnt s)) (he : s.cfg.scfdmEn = false)
    (hv : s.status.cfgValid = true) (hc : cnt ≤ Config.symCap) :
    ∃ t, exec i s = .next t ∧ Completed op cnt s t ∧ ConfigKept s t ∧ OnlyOutLen s t ∧
      t.draw = s.draw ∧ (∀ x, t.byte x = s.byte x) ∧
      ∀ m e, exec i { s with mem := m, epochs := e } = .next { t with mem := m, epochs := e } := by
  have hcompletes : ∀ u : State, u.cfg.scfdmEn = false → u.status.cfgValid = true →
      exec i u = .next (u.complete op cnt) := fun u heu hvu =>
    (hi u).trans (congrArg _ (precoder_of_disabled dir op heu hvu hc))
  exact ⟨_, hcompletes s he hv, completed_withEffect s (.of s) op (hc.trans_lt (by decide)),
    ⟨rfl, rfl, rfl⟩, rfl, rfl, complete_byte s op cnt,
    fun m e => hcompletes { s with mem := m, epochs := e } he hv⟩

/-! ### The statements -/

/-- Settles O22: PRECODE is the shared rule in the forward direction, DECODE in the inverse one. -/
theorem precoderTransformsInPlace : Obligations.PrecoderTransformsInPlace := fun s hs he =>
  ⟨precoder_transforms (exec_precode s.M s) hs he, precoder_transforms (exec_decode s.M s) hs he⟩

/-- Settles O23: the two checks in their order, then the completion. -/
theorem disabledPrecoderIsIdentity : Obligations.DisabledPrecoderIsIdentity := by
  intro cnt s he
  refine ⟨fun hv => ⟨?_, ?_⟩, fun hv hc => ⟨?_, ?_⟩, fun hv hc => ⟨?_, ?_⟩⟩
  · exact congrArg _ (precoder_of_notConfigured .fwd 0x10 hv)
  · exact congrArg _ (precoder_of_notConfigured .inv 0x11 hv)
  · exact congrArg _ (precoder_of_capacity .fwd 0x10 hv hc)
  · exact congrArg _ (precoder_of_capacity .inv 0x11 hv hc)
  · exact precoder_disabled_completes (exec_precode cnt) he hv hc
  · exact precoder_disabled_completes (exec_decode cnt) he hv hc

end Sys2Proof.Machine
end

section
/-! PROOF. The resource mapper and demappers (42_mapper R220 to R222), and the checks that EXTRACT_PILOTS shares
with CHEST (44_chest R260): the outcome of each check, the spectrum that MAP stores, and the elements that the
extractions copy. -/

namespace Sys2Proof.Machine

/-! ### What the pilot commands refuse -/

section
variable {s : State} (hv : s.status.cfgValid = true)
include hv

theorem extractPilots_raises_mode (src : Src) (hm : s.active.simple = true) :
    Raises 0x22 .mode 1 s (exec (.extractPilots src) s) := by
  simp only [exec, execExtractPilots, hv, hm]
  rfl

theorem chest_raises_mode (hm : s.active.simple = true) : Raises 0x40 .mode 1 s (exec .chest s) := by
  simp only [exec, execChest, hv, hm]
  rfl

theorem chest_raises_noPilots (hm : s.active.simple = false) (hP : s.P = 0) :
    Raises 0x40 .noPilots 0 s (exec .chest s) := by
  simp only [exec, execChest, hv, hm, hP]
  rfl

theorem chest_raises_pilotZero (hm : s.active.simple = false) (hP : s.P ≠ 0) {j : Nat}
    (hz : s.zeroPilot = some j) : Raises 0x40 .pilotZero j s (exec .chest s) := by
  simp only [exec, execChest, hv, hm, if_neg hP, hz]
  rfl

end

/-- The pilot that PILOT_ZERO reports is the lowest one whose squared magnitude is zero (44_chest R261). -/
theorem zeroPilot_eq_some_iff {s : State} {j : Nat} :
    s.zeroPilot = some j ↔ j < s.P ∧ Fp.eq (Cx.abs2 (s.elem .pil j)) 0 = true ∧
      ∀ j' < j, Fp.eq (Cx.abs2 (s.elem .pil j')) 0 = false := by
  simp only [State.zeroPilot, State.pilotTx, List.find?_range_eq_some, List.mem_range, Bool.not_eq_true']
  exact and_left_comm

/-- Settles O15, each clause by the check that fails first. -/
theorem pilotCommandsChecked : Obligations.PilotCommandsChecked := by
  intro s hv
  refine ⟨fun hm => ⟨fun src => ?_, ?_⟩, fun hm => ⟨fun hP => ?_, fun j hj hzero hlowest => ?_⟩⟩
  · exact extractPilots_raises_mode hv src hm
  · exact chest_raises_mode hv hm
  · exact chest_raises_noPilots hv hm hP
  · exact chest_raises_pilotZero hv hm (by omega) (zeroPilot_eq_some_iff.2 ⟨hj, hzero, hlowest⟩)

/-! ### What a store of computed elements leaves -/

/-- Element `i` of a stored run that was computed index by index. -/
theorem elem_writeElems_range (s : State) (b : Buffer) (f : Nat → Cplx) {n i : Nat} (hi : i < n) :
    (s.writeElems b ((List.range n).map f)).elem b i = f i := by
  simp [elem_writeElems, hi]

/-- A store within one buffer leaves the elements of a buffer above it. -/
theorem elem_of_sameBytesOutside {s t : State} {b b' : Buffer} {n : Nat}
    (h : SameBytesOutside b.base n s t) (hn : n ≤ b.size) (habove : b.base + b.size ≤ b'.base) (i : Nat) :
    t.elem b' i = s.elem b' i :=
  elem_of_bytes_eq b' i fun j _ => h _ <| .inr <| by
    unfold Buffer.elemAddr
    omega

/-- A command that stores `n` computed elements and completes with OUT_LEN `n`. -/
theorem completed_store_range (s : State) (b : Buffer) (f : Nat → Cplx) (op : BitVec 8) {n : Nat}
    (hn : n < 2 ^ 24) {t : State} (ht : (s.writeElems b ((List.range n).map f)).complete op n = t) :
    Completed op n s t ∧ ConfigKept s t ∧ OnlyOutLen s t ∧ t.draw = s.draw ∧
      SameBytesOutside b.base (16 * n) s t ∧ ∀ i < n, t.elem b i = f i := by
  obtain ⟨hdone, hconfig, hresults, hdraw, hbytes⟩ := completed_store s b _ op hn ht
  rw [List.length_map, List.length_range] at hbytes
  refine ⟨hdone, hconfig, hresults, hdraw, hbytes, fun i hi => ?_⟩
  rw [← ht, complete_elem, elem_writeElems_range s b f hi]

/-! ### The extractions -/

section
variable {s : State} (src : Src) (hv : s.status.cfgValid = true)
include hv

/-- EXTRACT_DATA in LTE mode (42_mapper R221). -/
theorem exec_extractData_of_lte (hm : s.active.simple = false) :
    exec (.extractData src) s = .next ((s.writeElems .sym ((List.range s.M).map fun i =>
      s.elem (srcBuffer src) (s.grid.dataIndex i))).complete 0x21 s.M) := by
  simp only [exec, execExtractData, hv, hm]
  rfl

/-- EXTRACT_DATA in SIMPLE mode (42_mapper R221). -/
theorem exec_extractData_of_simple (hm : s.active.simple = true) :
    exec (.extractData src) s = .next ((s.writeElems .sym ((List.range s.Nc).map fun i =>
      s.elem (srcBuffer src) i)).complete 0x21 s.Nc) := by
  simp only [exec, execExtractData, hv, hm]
  rfl

/-- EXTRACT_PILOTS in LTE mode (42_mapper R222). -/
theorem exec_extractPilots_of_lte (hm : s.active.simple = false) :
    exec (.extractPilots src) s = .next ((s.writeElems .prx ((List.range s.P).map fun j =>
      s.elem (srcBuffer src) (s.grid.pilotIndex j))).complete 0x22 s.P) := by
  simp only [exec, execExtractPilots, hv, hm]
  rfl

end

/-- The counts that are 12-bit registers fit OUT_LEN (10_state R55, R56). -/
theorem toNat_lt_outLen (n : BitVec 12) : n.toNat < 2 ^ 24 := n.isLt.trans (by decide)

/-- Settles O27: in either mode the store of the copied elements. -/
theorem extractDataCopiesSlots : Obligations.ExtractDataCopiesSlots := fun src s hv =>
  ⟨fun hm => ⟨_, exec_extractData_of_lte src hv hm,
      completed_store_range s .sym _ 0x21 (toNat_lt_outLen s.active.dataCount) rfl⟩,
    fun hm => ⟨_, exec_extractData_of_simple src hv hm,
      completed_store_range s .sym _ 0x21 (toNat_lt_outLen s.active.nc) rfl⟩⟩

/-- Settles O28: the store of the copied pilots. -/
theorem extractPilotsCopiesPilots : Obligations.ExtractPilotsCopiesPilots := fun src s hv hm =>
  ⟨_, exec_extractPilots_of_lte src hv hm,
    completed_store_range s .prx _ 0x22 (toNat_lt_outLen s.active.pilotCount) rfl⟩

/-! ### The spectrum that MAP stores -/

/-- Entry `i` of an index list is a subcarrier of the class, with ordinal `i` (40_config_grid R174). -/
theorem indices_getD {g : Grid} {c : Carrier} {i : Nat} (h : i < g.count c) :
    (g.indices c).getD i 0 < g.n ∧ g.classify ((g.indices c).getD i 0) = c ∧
      g.ordinal ((g.indices c).getD i 0) = i := by
  rw [List.getD_eq_getElem _ _ h]
  obtain ⟨hlt, hclass⟩ := mem_indices.1 (List.getElem_mem h)
  exact ⟨hlt, hclass, ordinal_indices_getElem h⟩

section
variable {s : State} (d : Nat)

/-- A data slot gets its symbol when there is one (42_mapper R220). -/
theorem mapLte_dataIndex {i : Nat} (h : i < s.grid.count .data) :
    s.mapLte d (s.grid.dataIndex i) = if i < d then s.elem .sym i else czero := by
  obtain ⟨-, hclass, hord⟩ := indices_getD h
  simp only [State.mapLte, Grid.dataIndex, hclass, hord]

/-- Every pilot subcarrier gets its pilot (42_mapper R220). -/
theorem mapLte_pilotIndex {j : Nat} (h : j < s.grid.count .pilot) (hP : j < s.P) :
    s.mapLte d (s.grid.pilotIndex j) = s.elem .pil j := by
  obtain ⟨-, hclass, hord⟩ := indices_getD h
  simp only [State.mapLte, Grid.pilotIndex, hclass, hord, if_pos hP]

/-- DC and the guards get zero (42_mapper R220). -/
theorem mapLte_of_null {k : Nat} (h : s.grid.classify k = .dc ∨ s.grid.classify k = .guard) :
    s.mapLte d k = czero := by
  rcases h with h | h <;> simp only [State.mapLte, h]

end

/-! ### MAP -/

section
variable {s : State} {cnt : Nat} (hv : s.status.cfgValid = true) (hcap : cnt ≤ Config.symCap)
include hv hcap

theorem exec_map_of_simple (hm : s.active.simple = true) (hc : cnt ≤ s.Nc) :
    exec (.map cnt) s = .next ((s.mapped (s.mapSimple cnt) cnt 0).complete 0x20 s.N) := by
  simp only [exec, execMap, hv, hm, if_neg (not_lt.2 hcap), if_neg (not_lt.2 hc)]
  rfl

theorem exec_map_of_lte (hm : s.active.simple = false) (hc : cnt ≤ s.M) :
    exec (.map cnt) s = .next ((s.mapped (s.mapLte cnt) cnt s.P).complete 0x20 s.N) := by
  simp only [exec, execMap, hv, hm, if_neg (not_lt.2 hcap), if_neg (not_lt.2 hc)]
  rfl

end

/-- A MAP that completes: the spectrum cell by cell, the metadata, and nothing else (42_mapper R220). -/
theorem map_completes {s : State} {cnt pilots : Nat} {cell : Nat → Cplx}
    (hexec : exec (.map cnt) s = .next ((s.mapped cell cnt pilots).complete 0x20 s.N))
    (hlegal : s.active.legal) (hc : cnt ≤ s.N) (hp : pilots ≤ s.N) :
    ∃ t, exec (.map cnt) s = .next t ∧ Completed 0x20 s.N s t ∧ ConfigKept s t ∧ t.draw = s.draw ∧
      SameBytesOutside Buffer.freq.base (16 * s.N) s t ∧ (∀ k < s.N, t.elem .freq k = cell k) ∧
      t.results.mapData.toNat = cnt ∧ t.results.mapPilot.toNat = pilots ∧
      t.results.mapNull.toNat = s.N - cnt - pilots ∧
      t.results = { s.results with outLen := t.results.outLen, mapData := t.results.mapData,
                                   mapPilot := t.results.mapPilot, mapNull := t.results.mapNull } := by
  have hN : s.N ≤ 2048 := (legal_ranges hlegal).2.1
  have hfits : ∀ n ≤ s.N, (BitVec.ofNat 12 n).toNat = n := fun n hn =>
    (BitVec.toNat_ofNat n 12).trans (Nat.mod_eq_of_lt (by omega))
  refine ⟨_, hexec, completed_withEffect s (.of (s.mapped cell cnt pilots)) 0x20 (by omega), ⟨rfl, rfl, rfl⟩,
    rfl, fun x hx => ?_, fun k hk => ?_, hfits cnt hc, hfits pilots hp, hfits _ (by omega), rfl⟩
  · exact byte_writeElems_outside s .freq ((List.range s.N).map cell) x (by simpa using hx)
  · exact elem_writeElems_range s .freq cell hk

/-- Settles O26: a bin below the count gets its symbol, any other zero. -/
theorem mapFillsFirstBins : Obligations.MapFillsFirstBins := by
  intro cnt s ⟨hv, hlegal⟩ hm hc
  obtain ⟨-, hN2048, -, -, hNcN, -⟩ := legal_ranges hlegal
  have hcN : cnt ≤ s.N := hc.trans hNcN
  obtain ⟨t, ht, hdone, hconfig, hdraw, hbytes, hcell, hmeta⟩ :=
    map_completes (exec_map_of_simple hv (hcN.trans hN2048) hm hc) hlegal hcN (Nat.zero_le _)
  refine ⟨t, ht, hdone, hconfig, hdraw, hbytes, fun k hk => ?_, fun k hk hkN => ?_, hmeta⟩
  · exact (hcell k (hk.trans_le hcN)).trans (if_pos hk)
  · exact (hcell k hkN).trans (if_neg hk.not_gt)

/-- Settles O25: each subcarrier by its class, and by its ordinal in the class. -/
theorem mapFillsLteGrid : Obligations.MapFillsLteGrid := by
  intro cnt s ⟨hv, hlegal⟩ hm hc
  obtain ⟨hM, hP⟩ : s.M = s.grid.count .data ∧ s.P = s.grid.count .pilot := legal_counts hlegal
  have hMN : s.M ≤ s.N := hM.trans_le (count_le s.grid .data)
  have hPN : s.P ≤ s.N := hP.trans_le (count_le s.grid .pilot)
  obtain ⟨t, ht, hdone, hconfig, hdraw, hbytes, hcell, hmeta⟩ :=
    map_completes (exec_map_of_lte hv (hc.trans (M_le_symCap hlegal)) hm hc) hlegal (hc.trans hMN) hPN
  have hslot : ∀ i < s.M, t.elem .freq (s.grid.dataIndex i) = if i < cnt then s.elem .sym i else czero :=
    fun i hi => (hcell _ (indices_getD (hi.trans_eq hM)).1).trans (mapLte_dataIndex cnt (hi.trans_eq hM))
  refine ⟨t, ht, hdone, hconfig, hdraw, hbytes,
    fun i hi => ?_, fun j hj => ?_, fun i hi hiM => ?_, fun k hk hnull => ?_, hmeta⟩
  · exact (hslot i (hi.trans_le hc)).trans (if_pos hi)
  · exact (hcell _ (indices_getD (hj.trans_eq hP)).1).trans (mapLte_pilotIndex cnt (hj.trans_eq hP) hj)
  · exact (hslot i hiM).trans (if_neg hi.not_gt)
  · exact (hcell k hk).trans (mapLte_of_null cnt hnull)

/-! ### The extractions after a MAP -/

/-- The operands that an unchanged active configuration fixes (10_state R54, R55). -/
theorem operands_congr {s t : State} (h : t.active = s.active) :
    t.M = s.M ∧ t.P = s.P ∧ t.grid = s.grid := by
  simp only [State.M, State.P, State.grid, State.N, State.Nc, h, and_self]

/-- Settles O29: SYM and PRX are the slots and the pilots of the spectrum of O25. The store to SYM ends below
FREQ, and the store to PRX below SYM. -/
theorem extractAfterMapRestores : Obligations.ExtractAfterMapRestores := by
  intro cnt s t u v hs hm hc ht hu hv
  obtain ⟨t, ht', -, htc, -, -, hdata, hpilots, hrest, -⟩ := mapFillsLteGrid cnt s hs hm hc
  obtain rfl := Host.Outcome.next.inj (ht'.symm.trans ht)
  have hmt := (congrArg Active.simple htc.active).trans hm
  obtain ⟨u, hu', -, huc, -, -, hubytes, hsym⟩ :=
    (extractDataCopiesSlots .freq t (htc.cfgValid.trans hs.1)).1 hmt
  obtain rfl := Host.Outcome.next.inj (hu'.symm.trans hu)
  obtain ⟨v, hv', -, -, -, -, hvbytes, hprx⟩ := extractPilotsCopiesPilots .freq u
    (huc.cfgValid.trans (htc.cfgValid.trans hs.1)) ((congrArg Active.simple huc.active).trans hmt)
  obtain rfl := Host.Outcome.next.inj (hv'.symm.trans hv)
  obtain ⟨hMt, -, hgt⟩ := operands_congr htc.active
  obtain ⟨-, hPu, hgu⟩ := operands_congr (huc.active.trans htc.active)
  have hfit : s.CountsFit := countsFit_of_legal hs.2
  rw [hMt] at hubytes hsym
  rw [hgt] at hsym
  rw [hPu] at hvbytes hprx
  rw [hgu] at hprx
  have hslot : ∀ i < s.M, v.elem .sym i = t.elem .freq (s.grid.dataIndex i) := fun i hi =>
    (elem_of_sameBytesOutside hvbytes hfit.P (by decide) i).trans (hsym i hi)
  refine ⟨fun i hi => ?_, fun i hi hiM => ?_, fun j hj => ?_⟩
  · exact (hslot i (hi.trans_le hc)).trans (hdata i hi)
  · exact (hslot i hiM).trans (hrest i hi hiM)
  · have hfreq := elem_of_sameBytesOutside (b' := .freq) hubytes hfit.M (by decide)
    exact (hprx j hj).trans ((hfreq _).trans (hpilots j hj))

end Sys2Proof.Machine
end

section
/-! PROOF. IFFT_CP and CP_FFT (43_ofdm R240, R241): the samples of a symbol with its CP, the samples that the
receiver transforms, and what each command stores. -/

namespace Sys2Proof.Machine

/-! ### The length of a symbol -/

theorem CP_le_N {s : State} (h : s.active.legal) : s.CP ≤ s.N := (legal_ranges h).2.2.2.2.2

/-- A symbol of a legal configuration fits TIME with its CP (00_scope R10). -/
theorem N_add_CP_le_timeCap {s : State} (h : s.active.legal) : s.N + s.CP ≤ Config.timeCap := by
  have hN : s.N ≤ 2048 := (legal_ranges h).2.1
  exact Nat.add_le_add hN ((CP_le_N h).trans hN)

/-! ### The samples put before a symbol -/

section
variable {n cp : Nat} {x : List Cplx} (hl : x.length = n) (hcp : cp ≤ n) (d : Cplx)
include hl hcp

/-- The samples put before the symbol are its last ones (43_ofdm R240). -/
theorem withPrefix_getD_of_lt {i : Nat} (hi : i < cp) :
    (withPrefix n cp x).getD i d = x.getD (n - cp + i) d := by
  have hlt : i < (x.drop (n - cp)).length := by
    rw [List.length_drop]
    omega
  simp only [withPrefix, List.getD_eq_getElem?_getD, List.getElem?_append_left hlt, List.getElem?_drop]

/-- The symbol comes after the CP samples (43_ofdm R240). -/
theorem withPrefix_getD_symbol (i : Nat) : (withPrefix n cp x).getD (cp + i) d = x.getD i d := by
  have hlen : (x.drop (n - cp)).length = cp := by
    rw [List.length_drop]
    omega
  simp only [withPrefix, List.getD_eq_getElem?_getD]
  rw [List.getElem?_append_right (by omega), hlen, Nat.add_sub_cancel_left]

/-- The extension is cyclic: sample `i` comes again `n` samples on (43_ofdm R240). -/
theorem withPrefix_getD_cyclic {i : Nat} (hi : i < cp) :
    (withPrefix n cp x).getD i d = (withPrefix n cp x).getD (n + i) d := by
  rw [withPrefix_getD_of_lt hl hcp d hi, show n + i = cp + (n - cp + i) by omega,
    withPrefix_getD_symbol hl hcp]

end

/-! ### IFFT_CP -/

/-- IFFT_CP on a configured block: the prefixed inverse transform in TIME, and nothing else (43_ofdm R240). -/
theorem ifftCp_completes {s : State} (hs : s.configured) :
    ∃ t, exec .ifftCp s = .next t ∧ Completed 0x30 (s.N + s.CP) s t ∧ ConfigKept s t ∧ OnlyOutLen s t ∧
      t.draw = s.draw ∧ SameBytesOutside Buffer.time.base (16 * (s.N + s.CP)) s t ∧
      ∀ i < s.N + s.CP, t.elem .time i =
        (withPrefix s.N s.CP (xform .inv s.N (s.elems .freq s.N))).getD i czero := by
  have hfit := N_add_CP_le_timeCap hs.2
  have hlen := withPrefix_length (xform_length .inv s.N (s.elems .freq s.N)) (CP_le_N hs.2)
  obtain ⟨hdone, hconfig, hresults, hdraw, hbytes⟩ :=
    completed_store s .time _ 0x30 (hfit.trans_lt (by decide)) rfl
  rw [hlen] at hbytes
  refine ⟨_, exec_ifftCp_of_valid hs.1, hdone, hconfig, hresults, hdraw, hbytes, fun i hi => ?_⟩
  rw [complete_elem, elem_writeElems s .time _ i (hi.trans_eq hlen.symm)]

/-- Settles O30: the elements stored to TIME are the samples of the prefixed transform. -/
theorem ifftCpWritesPrefixedSymbol : Obligations.IfftCpWritesPrefixedSymbol := by
  intro s hs
  have hcp := CP_le_N hs.2
  have hlen := xform_length .inv s.N (s.elems .freq s.N)
  obtain ⟨t, ht, hdone, hconfig, hresults, hdraw, hbytes, helem⟩ := ifftCp_completes hs
  refine ⟨t, ht, hdone, hconfig, hresults, hdraw, hbytes, fun n hn => ?_, fun i hi => ?_⟩
  · rw [helem _ (by omega), withPrefix_getD_symbol hlen hcp]
  · rw [helem _ (by omega), helem _ (by omega), withPrefix_getD_cyclic hlen hcp czero hi]

/-! ### CP_FFT -/

/-- What CP_FFT of `cnt > 0` samples leaves before it completes (43_ofdm R241). -/
def State.demodulated (s : State) (cnt : Nat) : State :=
  { s.writeElems .freq (xform .fwd s.N ((List.range s.N).map (s.received cnt))) with
    results := { s.results with rxPad := BitVec.ofNat 13 (s.N + s.CP - cnt) } }

theorem exec_cpFft_eq_demodulated {s : State} {cnt : Nat} (hv : s.status.cfgValid = true) (h0 : 0 < cnt)
    (hc : cnt ≤ Config.timeCap) :
    exec (.cpFft cnt) s = .next ((s.demodulated cnt).complete 0x31 s.N) := exec_cpFft_of_valid hv h0 hc

/-- CP_FFT of some samples within capacity: the transform of the received samples, the missing count modulo
the width of RX_PAD, and nothing else, whether or not the active configuration is legal (43_ofdm R241). -/
theorem cpFft_completes {s : State} {cnt : Nat} (hv : s.status.cfgValid = true) (h0 : 0 < cnt)
    (hc : cnt ≤ Config.timeCap) :
    ∃ t, exec (.cpFft cnt) s = .next t ∧ Completed 0x31 s.N s t ∧ ConfigKept s t ∧ t.draw = s.draw ∧
      SameBytesOutside Buffer.freq.base (16 * s.N) s t ∧
      t.elems .freq s.N = xform .fwd s.N ((List.range s.N).map (s.received cnt)) ∧
      t.results.rxPad = BitVec.ofNat 13 (s.N + s.CP - cnt) ∧
      t.results = { s.results with outLen := t.results.outLen, rxPad := t.results.rxPad } := by
  have hN : s.N < 2 ^ 24 := s.active.n.isLt.trans (by decide)
  have hlen : (xform .fwd s.N ((List.range s.N).map (s.received cnt))).length = s.N := xform_length _ _ _
  refine ⟨_, exec_cpFft_eq_demodulated hv h0 hc, completed_withEffect s (.of (s.demodulated cnt)) 0x31 hN,
    ⟨rfl, rfl, rfl⟩, rfl, fun x hx => ?_, ?_, rfl, rfl⟩
  · exact byte_writeElems_outside s .freq _ x (hlen.symm ▸ hx)
  · exact elems_writeElems s .freq hlen

/-- Settles O31: under a legal configuration the missing count fits RX_PAD. -/
theorem cpFftTransformsReceived : Obligations.CpFftTransformsReceived := by
  intro cnt s ⟨hv, hlegal⟩ h0 hc
  have hfit : s.N + s.CP ≤ 4096 := N_add_CP_le_timeCap hlegal
  obtain ⟨t, ht, hdone, hconfig, hdraw, hbytes, helems, hpad, hresults⟩ := cpFft_completes hv h0 hc
  refine ⟨t, ht, hdone, hconfig, hdraw, hbytes, helems, ?_, hresults⟩
  rw [hpad, BitVec.toNat_ofNat, Nat.mod_eq_of_lt (by omega)]
  split <;> omega

/-- The received samples that are transformed depend on the active configuration and on the samples of TIME
from CP on that belong to the symbol (43_ofdm R241). -/
theorem received_congr {s s' : State} {cnt n : Nat} (hactive : s'.active = s.active)
    (htime : ∀ i, s.CP ≤ i → i < cnt → i < s.CP + s.N → s'.elem .time i = s.elem .time i) (hn : n < s.N) :
    s'.received cnt n = s.received cnt n := by
  have hCP : s'.CP = s.CP := congrArg (·.cp.toNat) hactive
  simp only [State.received, hCP]
  split
  · next hlt => exact htime _ (by omega) hlt (by omega)
  · rfl

/-- Settles O33: both runs store the transform of the same received samples. -/
theorem cpFftIgnoresPrefixAndPadding : Obligations.CpFftIgnoresPrefixAndPadding := by
  intro cnt s s' t t' hv hv' hactive h0 hc htime ht ht'
  have hN : s'.N = s.N := congrArg (·.n.toNat) hactive
  have hCP : s'.CP = s.CP := congrArg (·.cp.toNat) hactive
  have hreceived : (List.range s.N).map (s'.received cnt) = (List.range s.N).map (s.received cnt) :=
    List.map_congr_left fun n hn => received_congr hactive htime (List.mem_range.1 hn)
  obtain ⟨u, hu, -, -, -, -, helems, hpad, -⟩ := cpFft_completes hv h0 hc
  obtain ⟨u', hu', -, -, -, -, helems', hpad', -⟩ := cpFft_completes hv' h0 hc
  obtain rfl := Host.Outcome.next.inj (hu.symm.trans ht)
  obtain rfl := Host.Outcome.next.inj (hu'.symm.trans ht')
  rw [hN, hreceived] at helems'
  rw [hN, hCP] at hpad'
  exact ⟨helems'.trans helems.symm, hpad'.trans hpad.symm⟩

/-- CP_FFT of no samples: RX_PAD, then the completion (43_ofdm R241). -/
theorem exec_cpFft_zero {s : State} (hv : s.status.cfgValid = true) :
    exec (.cpFft 0) s = .next
      (State.complete { s with results := { s.results with rxPad := 0 } } 0x31 0) := by
  simp only [exec, execCpFft, hv]
  rfl

/-- Settles O32: the effect on RX_PAD alone. -/
theorem cpFftOfNothingIsEmpty : Obligations.CpFftOfNothingIsEmpty := fun s hv =>
  ⟨_, exec_cpFft_zero hv,
    completed_withEffect s (.of { s with results := { s.results with rxPad := 0 } }) 0x31 (by decide),
    ⟨rfl, rfl, rfl⟩, rfl, fun _ => rfl, rfl, rfl⟩

end Sys2Proof.Machine
end

section
/-! PROOF. CHEST (44_chest R260 to R264): interpolation over rising pilots, the elements stored to CHAN, the SNR
registers, and the values of the logarithm that R28 fixes. -/

namespace Sys2Proof.Machine

/-! ### Stored results (00_scope R26) -/

theorem isNaN_freeNaN (draw place i : Nat) : Fp.isNaN (freeNaN draw place i) = true := by
  simp only [freeNaN]
  split
  · assumption
  · decide

theorem agrees_storeF64 (draw place i : Nat) (x : F64) : Agrees (storeF64 draw place i x) x := by
  unfold Agrees storeF64
  split
  · exact isNaN_freeNaN draw place i
  · rfl

theorem cxAgrees_storeCplx (draw place i : Nat) (z : Cplx) : CxAgrees (storeCplx draw place i z) z :=
  ⟨agrees_storeF64 .., agrees_storeF64 ..⟩

/-! ### Interpolation over rising points (44_chest R262) -/

section
variable (draw : Nat) {k p p' : Nat} (h h' : Cplx) (rest : List (Nat × Cplx))

/-- Up to the first point, and at it, the first value. -/
theorem interp_of_le (hk : k ≤ p) : interp draw k ((p, h) :: rest) = h := by
  cases rest with
  | nil => rfl
  | cons q rest => exact if_pos hk

/-- Between the first two points, the line through them. -/
theorem interp_of_between (hlow : p < k) (hhigh : k < p') :
    interp draw k ((p, h) :: (p', h') :: rest) =
      storeCplx draw 1 k ⟨lerp h.re h'.re (p' - p) (k - p), lerp h.im h'.im (p' - p) (k - p)⟩ :=
  (if_neg hlow.not_ge).trans (if_pos hhigh)

/-- From the second point on the first one plays no part. -/
theorem interp_of_second_le (hrise : p < p') (hk : p' ≤ k) :
    interp draw k ((p, h) :: (p', h') :: rest) = interp draw k ((p', h') :: rest) :=
  (if_neg (hrise.trans_le hk).not_ge).trans (if_neg hk.not_gt)

end

/-- From point `j` on the points before it play no part. -/
theorem interp_eq_interp_drop (draw : Nat) {k : Nat} {points : List (Nat × Cplx)}
    (hrise : points.Pairwise fun a b => a.1 < b.1) {j : Nat} (hj : j < points.length)
    (hk : points[j].1 ≤ k) : interp draw k points = interp draw k (points.drop j) := by
  induction j generalizing points with
  | zero => rfl
  | succ j ih =>
    match points, hrise with
    | q :: q' :: rest, hrise =>
      obtain ⟨hq, hrest⟩ := List.pairwise_cons.1 hrise
      have hle : q'.1 ≤ k := by
        refine le_trans ?_ hk
        cases j with
        | zero => exact le_rfl
        | succ j => exact ((List.pairwise_cons.1 hrest).1 _ (List.getElem_mem _)).le
      exact (interp_of_second_le draw q.2 q'.2 rest (hq q' List.mem_cons_self) hle).trans
        (ih hrest (Nat.lt_of_succ_lt_succ hj) hk)

/-! ### The pilots of a legal configuration -/

/-- The pilot indices rise (40_config_grid R174). -/
theorem pilotIndex_lt_pilotIndex {g : Grid} {i j : Nat} (hij : i < j) (hj : j < g.count .pilot) :
    g.pilotIndex i < g.pilotIndex j := by
  unfold Grid.pilotIndex
  rw [List.getD_eq_getElem _ _ hj, List.getD_eq_getElem _ _ (hij.trans hj)]
  exact List.pairwise_iff_getElem.1 (indices_pairwise_lt g .pilot) i j _ _ hij

theorem pilotPoints_length (s : State) : s.pilotPoints.length = s.P := by
  simp [State.pilotPoints]

theorem pilotPoints_drop {s : State} {j : Nat} (hj : j < s.P) :
    s.pilotPoints.drop j = (s.grid.pilotIndex j, s.pilotEstimate j) :: s.pilotPoints.drop (j + 1) := by
  rw [List.drop_eq_getElem_cons (hj.trans_eq (pilotPoints_length s).symm)]
  simp [State.pilotPoints]

/-- The channel estimate at subcarrier `k` (44_chest R262). -/
def State.channelAt (s : State) (k : Nat) : Cplx := interp s.draw k s.pilotPoints

/-- Flat up to the first pilot. -/
theorem channelAt_of_le_first {s : State} {k : Nat} (hP : 0 < s.P) (hk : k ≤ s.grid.pilotIndex 0) :
    s.channelAt k = s.pilotEstimate 0 := by
  rw [State.channelAt, ← List.drop_zero (l := s.pilotPoints), pilotPoints_drop hP]
  exact interp_of_le _ _ _ hk

section
variable {s : State} (hlegal : s.active.legal)
include hlegal

theorem P_eq_count_pilot : s.P = s.grid.count .pilot := (legal_counts hlegal).2

theorem pilotIndex_lt_N {j : Nat} (hj : j < s.P) : s.grid.pilotIndex j < s.N :=
  (indices_getD (hj.trans_eq (P_eq_count_pilot hlegal))).1

theorem pilotPoints_rise : s.pilotPoints.Pairwise fun a b => a.1 < b.1 := by
  rw [State.pilotPoints, List.pairwise_map]
  refine List.pairwise_lt_range.imp_of_mem fun {i j} _ hj hij => ?_
  exact pilotIndex_lt_pilotIndex hij ((List.mem_range.1 hj).trans_eq (P_eq_count_pilot hlegal))

/-- From pilot `j` on only the pilots from `j` on play a part. -/
theorem channelAt_of_le {j k : Nat} (hj : j < s.P) (hk : s.grid.pilotIndex j ≤ k) :
    s.channelAt k = interp s.draw k
      ((s.grid.pilotIndex j, s.pilotEstimate j) :: s.pilotPoints.drop (j + 1)) := by
  rw [← pilotPoints_drop hj]
  exact interp_eq_interp_drop s.draw (pilotPoints_rise hlegal)
    (hj.trans_eq (pilotPoints_length s).symm) (by simpa [State.pilotPoints] using hk)

/-- At a pilot, its own estimate. -/
theorem channelAt_pilotIndex {j : Nat} (hj : j < s.P) :
    s.channelAt (s.grid.pilotIndex j) = s.pilotEstimate j :=
  (channelAt_of_le hlegal hj le_rfl).trans (interp_of_le _ _ _ le_rfl)

/-- Flat from the last pilot on. -/
theorem channelAt_of_last_le {k : Nat} (hP : 0 < s.P) (hk : s.grid.pilotIndex (s.P - 1) ≤ k) :
    s.channelAt k = s.pilotEstimate (s.P - 1) := by
  have hnone : s.pilotPoints.drop (s.P - 1 + 1) = [] :=
    List.drop_eq_nil_of_le (by rw [pilotPoints_length]; omega)
  rw [channelAt_of_le hlegal (by omega) hk, hnone, interp]

/-- Linear between two neighbouring pilots. -/
theorem channelAt_of_between {j k : Nat} (hj : j + 1 < s.P) (hlow : s.grid.pilotIndex j < k)
    (hhigh : k < s.grid.pilotIndex (j + 1)) :
    let a := s.pilotEstimate j
    let b := s.pilotEstimate (j + 1)
    let dx := s.grid.pilotIndex (j + 1) - s.grid.pilotIndex j
    s.channelAt k = storeCplx s.draw 1 k
      ⟨lerp a.re b.re dx (k - s.grid.pilotIndex j), lerp a.im b.im dx (k - s.grid.pilotIndex j)⟩ := by
  intro a b dx
  rw [channelAt_of_le hlegal (by omega) hlow.le, pilotPoints_drop hj]
  exact interp_of_between _ _ _ _ hlow hhigh

end

/-! ### The command -/

theorem zeroPilot_eq_none {s : State} (h : ∀ j < s.P, Fp.eq (Cx.abs2 (s.elem .pil j)) 0 = false) :
    s.zeroPilot = none :=
  List.find?_eq_none.2 fun j hj => Bool.not_eq_true _ ▸ h j (List.mem_range.1 hj)

theorem exec_chest_of_valid {s : State} (hv : s.status.cfgValid = true) (hm : s.active.simple = false)
    (hP : 0 < s.P) (hz : s.zeroPilot = none) :
    exec .chest s = .next (s.estimated.complete 0x40 s.N) := by
  simp only [exec, execChest, hv, hm, if_neg hP.ne', hz]
  rfl

/-- The completion of a CHEST that passed its checks: the channel estimate in CHAN and nothing else in memory
(44_chest R260). -/
theorem estimated_completes (s : State) {t : State} (ht : s.estimated.complete 0x40 s.N = t) :
    Completed 0x40 s.N s t ∧ ConfigKept s t ∧ SameBytesOutside Buffer.chan.base (16 * s.N) s t ∧
      ∀ k < s.N, t.elem .chan k = s.channelAt k := by
  subst ht
  have hN : s.N < 2 ^ 24 := s.active.n.isLt.trans (by decide)
  refine ⟨completed_withEffect s (.of s.estimated) 0x40 hN, ⟨rfl, rfl, rfl⟩, fun x hx => ?_, fun k hk => ?_⟩
  · exact byte_writeElems_outside s .chan ((List.range s.N).map s.channelAt) x (by simpa using hx)
  · exact elem_writeElems_range s .chan s.channelAt hk

/-- Settles O35: CHAN holds the channel estimate, which is the pilots' own estimate at a pilot, flat outside the
pilots and linear between two. -/
theorem chestEstimatesChannel : Obligations.ChestEstimatesChannel := by
  intro s ⟨hv, hlegal⟩ hm hP hpil
  obtain ⟨hdone, hconfig, hbytes, hchan⟩ := estimated_completes s rfl
  have hpilot : ∀ j < s.P, (s.estimated.complete 0x40 s.N).elem .chan (s.grid.pilotIndex j) =
      s.pilotEstimate j := fun j hj =>
    (hchan _ (pilotIndex_lt_N hlegal hj)).trans (channelAt_pilotIndex hlegal hj)
  refine ⟨_, exec_chest_of_valid hv hm hP (zeroPilot_eq_none hpil), hdone, hconfig, hbytes,
    fun j hj => ?_, fun k hk => ?_, fun k hkN hk => ?_, fun j k hj hlow hhigh => ?_⟩
  · rw [hpilot j hj]
    exact cxAgrees_storeCplx ..
  · rw [hpilot 0 hP, hchan k (hk.trans_lt (pilotIndex_lt_N hlegal hP)), channelAt_of_le_first hP hk]
  · rw [hpilot _ (by omega), hchan k hkN, channelAt_of_last_le hlegal hP hk]
  · rw [hpilot j (by omega), hpilot (j + 1) hj, hchan k (hhigh.trans (pilotIndex_lt_N hlegal hj)),
      channelAt_of_between hlegal hj hlow hhigh]
    exact cxAgrees_storeCplx ..

/-! ### The SNR (44_chest R264) -/

/-- The two sums run apart, over the pilots in rising order. -/
theorem snrSums_range (n : Nat) (y x : Nat → Cplx) :
    snrSums ((List.range n).map fun j => (y j, x j)) =
      ((List.range n).foldl (fun acc j => Fp.add acc (Cx.abs2 (y j))) 0,
       (List.range n).foldl (fun acc j => Fp.add acc (Cx.abs2 (Cx.sub (y j) (x j)))) 0) := by
  rw [snrSums, List.foldl_map]
  exact List.foldl_hom₂ _ Prod.mk _ _ _ _ _ fun _ _ _ => rfl

/-- The SNR by the means of the two sums. -/
theorem snr_range (n : Nat) (y x : Nat → Cplx) :
    let ss := (List.range n).foldl (fun acc j => Fp.add acc (Cx.abs2 (y j))) 0
    let ns := (List.range n).foldl (fun acc j => Fp.add acc (Cx.abs2 (Cx.sub (y j) (x j)))) 0
    let sig := Fp.div ss (Fp.ofNat n)
    let noise := Fp.div ns (Fp.ofNat n)
    snr ((List.range n).map fun j => (y j, x j)) =
      (Fp.mul (Fp.ofNat 10) (log10 (Fp.div sig noise)), sig, noise) := by
  simp only [snr, snrSums_range, List.length_map, List.length_range]

/-- The result registers before the completion, by the SNR of the pilots. -/
theorem estimated_results {s : State} {db sig noise : F64}
    (h : snr ((List.range s.P).map fun j => (s.pilotRx j, s.pilotTx j)) = (db, sig, noise)) :
    s.estimated.results = { s.results with
      snrDb := storeF64 s.draw 2 0 db
      snrSig := storeF64 s.draw 2 1 sig
      snrNoise := storeF64 s.draw 2 2 noise } := by
  rw [State.estimated, h]
  rfl

/-- The logarithm where R28 bounds its error. -/
theorem log10_within {q : F64} (hf : Fp.isFinite q = true) (hpos : Fp.lt 0 q = true) (hq : q ≠ Fp.one) :
    Ideal.Log10Within q (log10 q) := by
  rw [log10_of_ordinary hf hpos hq]
  exact Log10Impl.meets _ q hf hpos hq

theorem log10_of_isNaN {q : F64} (h : Fp.isNaN q = true) : log10 q = Fp.qnan := if_pos h

/-- Settles O36: the registers by the two sums, and the logarithm by the cases of R28. -/
theorem chestMeasuresSnr : Obligations.ChestMeasuresSnr := by
  refine ⟨?_, by decide, by decide, by decide, fun q hq => ?_, by decide, fun q => log10_within⟩
  · intro s ⟨hv, _⟩ hm hP hpil y ss ns sig noise
    have hresults := estimated_results (snr_range s.P y s.pilotTx)
    refine ⟨_, exec_chest_of_valid hv hm hP (zeroPilot_eq_none hpil), ?_⟩
    rw [complete_results, hresults]
    exact ⟨agrees_storeF64 .., agrees_storeF64 .., agrees_storeF64 .., rfl⟩
  · rw [log10_of_isNaN hq]
    decide

end Sys2Proof.Machine
end

section
/-! PROOF. EQUALIZE (45_equalizer R280): the element stored at an index by its denominator, the count of the
zero denominators, and the sticky flag. -/

namespace Sys2Proof.Machine

/-! ### One index -/

theorem equalized_of_degenerate {s : State} {k : Nat} (h : s.degenerate k = true) :
    s.equalized k = czero := if_pos h

/-- The quotient, with the sign and payload of a NaN left open (00_scope R26). -/
theorem cxAgrees_equalized {s : State} {k : Nat} (h : s.degenerate k = false) :
    CxAgrees (s.equalized k) (Cx.div (s.elem .freq k) (s.regularized k)) := by
  rw [State.equalized, if_neg (ne_true_of_eq_false h)]
  exact cxAgrees_storeCplx ..

/-! ### The command -/

theorem degenerateCount_le_N (s : State) : s.degenerateCount ≤ s.N :=
  (List.length_filter_le _ _).trans_eq List.length_range

/-- The effect of EQUALIZE: the equalized elements in EQ, the count of zero denominators, and DEGEN set if
there is one (45_equalizer R280). -/
def State.equalizeEffect (s : State) : Effect :=
  { Effect.of (s.writeElems .eq ((List.range s.N).map s.equalized)) with
    draw := s.draw + 1
    results := { s.results with degenCount := BitVec.ofNat 12 s.degenerateCount }
    degen := fun d => d || decide (0 < s.degenerateCount) }

theorem exec_equalize_of_valid {s : State} (hv : s.status.cfgValid = true) :
    exec .equalize s = .next ((s.withEffect s.equalizeEffect).complete 0x41 s.N) := by
  simp only [exec, execEqualize, hv]
  rfl

theorem equalize_sameBytesOutside (s : State) : SameBytesOutside Buffer.eq.base (16 * s.N) s
    ((s.withEffect s.equalizeEffect).complete 0x41 s.N) := fun x hx =>
  byte_writeElems_outside s .eq ((List.range s.N).map s.equalized) x (by simpa using hx)

theorem equalize_elem {s : State} {k : Nat} (hk : k < s.N) :
    ((s.withEffect s.equalizeEffect).complete 0x41 s.N).elem .eq k = s.equalized k :=
  elem_writeElems_range s .eq s.equalized hk

/-- Settles O37: each index by its denominator, and a count that fits DEGEN_COUNT under a legal configuration. -/
theorem equalizeDivides : Obligations.EqualizeDivides := by
  intro s ⟨hv, hlegal⟩ b zero cnt
  have hN : s.N < 2 ^ 12 := (legal_ranges hlegal).2.1.trans_lt (by decide)
  have hcnt : s.degenerateCount < 2 ^ 12 := (degenerateCount_le_N s).trans_lt hN
  refine ⟨_, exec_equalize_of_valid hv,
    completed_withEffect s s.equalizeEffect 0x41 (hN.trans (by decide)), equalize_sameBytesOutside s,
    fun k hk hzero => ?_, fun k hk hzero => ?_, ?_, rfl, rfl, rfl, rfl⟩
  · rw [equalize_elem hk, equalized_of_degenerate hzero]
  · rw [equalize_elem hk]
    exact cxAgrees_equalized hzero
  · exact (BitVec.toNat_ofNat s.degenerateCount 12).trans (Nat.mod_eq_of_lt hcnt)

end Sys2Proof.Machine
end

section
/-! PROOF. The constellation on the exact real line (46_qam R291, R292): a hard decision takes a nearest level,
a stored coordinate is the binary64 nearest to its level, and so deciding a coordinate gives its level back. -/

namespace Sys2Proof.Machine

/-! ### The levels and the bits that select them (46_qam R291) -/

/-- The magnitudes of the levels of one coordinate. -/
def Modulation.magnitudes : Modulation → List Nat
  | .qpsk => [1]
  | .qam16 => [1, 3]
  | .qam64 => [1, 3, 5, 7]

theorem natAbs_level_mem (m : Modulation) (x y z : Bool) : (m.level x y z).natAbs ∈ m.magnitudes := by
  cases m <;> revert x y z <;> decide

/-- A level determines the bits of its modulation (46_qam R291). -/
theorem bits_eq_of_level_eq (m : Modulation) {x y z x' y' z' : Bool}
    (h : m.level x y z = m.level x' y' z') :
    x = x' ∧ (2 ≤ m.axisBits → y = y') ∧ (3 ≤ m.axisBits → z = z') := by
  cases m <;> revert x y z x' y' z' <;> decide

theorem Modulation.sqrt_K_pos (m : Modulation) : 0 < Real.sqrt m.K := by
  have hK : 0 < m.K := by cases m <;> decide
  exact Real.sqrt_pos.2 (by exact_mod_cast hK)

/-! ### The tests of the decision on real numbers (46_qam R292) -/

/-- The value of a finite binary64. -/
noncomputable def Fp.value (x : F64) : ℝ := (Fp.units x : ℝ) / 2 ^ 1074

/-- `x < 0` of a binary64. -/
theorem lt_zero_iff (x : F64) : Fp.lt x 0 = true ↔ Fp.isNaN x = false ∧ Fp.units x < 0 := by
  have h0 : Fp.units 0 = 0 := Fp.units_of_isZero (by decide)
  have hn : Fp.isNaN 0 = false := by decide
  simp only [Fp.lt, h0, hn, Bool.and_eq_true, Bool.not_eq_true', Bool.not_false, and_true, decide_eq_true_eq]

theorem isNaN_of_isFinite {x : F64} (h : Fp.isFinite x = true) : Fp.isNaN x = false := by
  simp_all [Fp.isFinite, Fp.isNaN]

theorem isInf_of_isFinite {x : F64} (h : Fp.isFinite x = true) : Fp.isInf x = false := by
  simp_all [Fp.isFinite, Fp.isInf]

theorem lt_zero_iff_value {x : F64} (h : Fp.isFinite x = true) :
    Fp.lt x 0 = true ↔ Fp.value x < 0 := by
  rw [lt_zero_iff, isNaN_of_isFinite h, Fp.value, div_lt_iff₀ (by positivity), zero_mul, Int.cast_lt_zero]
  exact and_iff_right rfl

/-- The test `K * a² > m²` on units compares `|x| √K` with `m`. -/
theorem absExceeds_iff {x : F64} (h : Fp.isFinite x = true) (m K : Nat) :
    Fp.absExceeds m K x = true ↔ (m : ℝ) < |Fp.value x| * Real.sqrt K := by
  have habs : |Fp.value x| = (Fp.mag x : ℝ) / 2 ^ 1074 := by
    rw [Fp.value, abs_div, abs_of_pos (show (0 : ℝ) < 2 ^ 1074 by positivity), ← Int.cast_abs, Fp.abs_units,
      Int.cast_natCast]
  have hpos : (0 : ℝ) < 2 ^ 1074 := by positivity
  rw [Fp.absExceeds, isNaN_of_isFinite h, isInf_of_isFinite h, habs]
  simp only [Bool.false_eq_true, if_false, decide_eq_true_eq]
  rw [← Nat.cast_lt (α := ℝ), Nat.cast_mul, Nat.cast_mul, Nat.cast_pow, Nat.cast_pow, Nat.cast_pow,
    Nat.cast_pow, Nat.cast_ofNat]
  generalize (2 : ℝ) ^ 1074 = B at hpos ⊢
  rw [div_mul_eq_mul_div, lt_div_iff₀ hpos,
    ← sq_lt_sq₀ (b := Fp.mag x * Real.sqrt K) (by positivity) (by positivity), mul_pow, mul_pow,
    Real.sq_sqrt (Nat.cast_nonneg K), mul_comm ((Fp.mag x : ℝ) ^ 2)]

/-! ### The decided level -/

/-- The magnitude of the decided level (46_qam R292). -/
def Modulation.decidedMagnitude (m : Modulation) (x : F64) : Nat :=
  match m with
  | .qpsk => 1
  | .qam16 => if Fp.absExceeds 2 10 x then 3 else 1
  | .qam64 => decideLevel64 x

/-- The level that the decision's bits select. -/
def Modulation.decidedLevel (m : Modulation) (x : F64) : ℤ :=
  m.level (m.decideAxis x).1 (m.decideAxis x).2.1 (m.decideAxis x).2.2

theorem decideLevel64_cases (x : F64) :
    decideLevel64 x = 1 ∨ decideLevel64 x = 3 ∨ decideLevel64 x = 5 ∨ decideLevel64 x = 7 := by
  unfold decideLevel64
  split_ifs <;> simp

/-- The decided bits select the decided magnitude, negative for `x < 0` (46_qam R291, R292). -/
theorem decidedLevel_eq (m : Modulation) (x : F64) :
    m.decidedLevel x =
      if Fp.lt x 0 then -(m.decidedMagnitude x : ℤ) else (m.decidedMagnitude x : ℤ) := by
  unfold Modulation.decidedLevel Modulation.decideAxis Modulation.decidedMagnitude
  cases m with
  | qpsk => cases Fp.lt x 0 <;> rfl
  | qam16 => cases Fp.lt x 0 <;> cases Fp.absExceeds 2 10 x <;> rfl
  | qam64 =>
    dsimp only
    obtain h | h | h | h := decideLevel64_cases x <;> rw [h] <;> cases Fp.lt x 0 <;> rfl

/-- No magnitude is nearer to `|x| √K` than the decided one: the boundaries are the midpoints, and to compare the
squares of two distances is linear in `|x| √K`. -/
theorem decidedMagnitude_nearest (m : Modulation) {x : F64} (h : Fp.isFinite x = true) {a : Nat}
    (ha : a ∈ m.magnitudes) :
    |(|Fp.value x| * Real.sqrt m.K) - m.decidedMagnitude x| ≤ |(|Fp.value x| * Real.sqrt m.K) - a| := by
  have hlevel := absExceeds_iff h
  rw [← sq_le_sq]
  cases m with
  | qpsk =>
    obtain rfl : a = 1 := by simpa [Modulation.magnitudes] using ha
    rfl
  | qam16 =>
    have h2 := hlevel 2 10
    simp only [Modulation.magnitudes, List.mem_cons, List.not_mem_nil, or_false] at ha
    simp only [Modulation.decidedMagnitude, Modulation.K, h2]
    generalize |Fp.value x| * Real.sqrt (10 : ℕ) = w
    split_ifs with hw <;> rcases ha with rfl | rfl <;> push_cast at hw ⊢ <;> linarith
  | qam64 =>
    have h2 := hlevel 2 42
    have h4 := hlevel 4 42
    have h6 := hlevel 6 42
    simp only [Modulation.magnitudes, List.mem_cons, List.not_mem_nil, or_false] at ha
    simp only [Modulation.decidedMagnitude, decideLevel64, Modulation.K, h2, h4, h6]
    generalize |Fp.value x| * Real.sqrt (42 : ℕ) = w
    split_ifs with hw6 hw4 hw2 <;> rcases ha with rfl | rfl | rfl | rfl <;> push_cast at * <;> linarith

/-- No level is nearer to `x √K` than the decided one. -/
theorem decidedLevel_nearest_scaled (m : Modulation) {x : F64} (h : Fp.isFinite x = true) (p q r : Bool) :
    |Fp.value x * Real.sqrt m.K - m.decidedLevel x| ≤ |Fp.value x * Real.sqrt m.K - m.level p q r| := by
  have hsqrt := m.sqrt_K_pos
  have hscale : |Fp.value x * Real.sqrt m.K| = |Fp.value x| * Real.sqrt m.K := by
    rw [abs_mul, abs_of_pos hsqrt]
  have hdecided : |Fp.value x * Real.sqrt m.K - m.decidedLevel x| =
      |(|Fp.value x| * Real.sqrt m.K) - m.decidedMagnitude x| := by
    rw [decidedLevel_eq]
    split_ifs with hneg
    · rw [abs_of_neg ((lt_zero_iff_value h).1 hneg), ← abs_neg]
      congr 1
      push_cast
      ring
    · rw [abs_of_nonneg (not_lt.1 (mt (lt_zero_iff_value h).2 hneg)), Int.cast_natCast]
  calc |Fp.value x * Real.sqrt m.K - m.decidedLevel x|
      ≤ |(|Fp.value x| * Real.sqrt m.K) - (m.level p q r).natAbs| := by
        rw [hdecided]
        exact decidedMagnitude_nearest m h (natAbs_level_mem m p q r)
    _ = |(|Fp.value x * Real.sqrt m.K|) - (|(m.level p q r : ℝ)|)| := by
        rw [hscale, Nat.cast_natAbs, Int.cast_abs]
    _ ≤ |Fp.value x * Real.sqrt m.K - m.level p q r| := abs_abs_sub_abs_le _ _

/-- No level over √K is nearer to `x` than the decided one (46_qam R292). -/
theorem decidedLevel_nearest (m : Modulation) {x : F64} (h : Fp.isFinite x = true) (p q r : Bool) :
    |Fp.value x - m.decidedLevel x / Real.sqrt m.K| ≤ |Fp.value x - m.level p q r / Real.sqrt m.K| := by
  have hsqrt := m.sqrt_K_pos
  have hscale (l : ℝ) : |Fp.value x - l / Real.sqrt m.K| = |Fp.value x * Real.sqrt m.K - l| / Real.sqrt m.K := by
    rw [← abs_of_pos hsqrt, ← abs_div, abs_of_pos hsqrt, sub_div, mul_div_cancel_right₀ _ hsqrt.ne']
  rw [hscale, hscale]
  exact div_le_div_of_nonneg_right (decidedLevel_nearest_scaled m h p q r) hsqrt.le

/-! ### The decision on zeros, infinities and NaNs (46_qam R292) -/

/-- Where every test is false the decided magnitude is 1. -/
theorem decidedMagnitude_eq_one (m : Modulation) {x : F64} (h : ∀ a K, Fp.absExceeds a K x = false) :
    m.decidedMagnitude x = 1 := by
  cases m <;> simp [Modulation.decidedMagnitude, decideLevel64, h]

/-- A zero or a NaN, for which every test is false, decides +1. -/
theorem decidedLevel_eq_one (m : Modulation) {x : F64} (h : Fp.isZero x = true ∨ Fp.isNaN x = true) :
    m.decidedLevel x = 1 := by
  have hlt : Fp.lt x 0 = false := by
    rw [← Bool.not_eq_true, lt_zero_iff]
    rcases h with h | h
    · simp [Fp.units_of_isZero h]
    · simp [h]
  have hexceeds : ∀ a K, Fp.absExceeds a K x = false := fun a K => by
    rcases h with h | h
    · have hfinite : Fp.isFinite x = true := by simp_all [Fp.isZero, Fp.isFinite]
      rw [← Bool.not_eq_true, absExceeds_iff hfinite, Fp.value, Fp.units_of_isZero h]
      simp
    · simp [Fp.absExceeds, h]
  rw [decidedLevel_eq, hlt, decidedMagnitude_eq_one m hexceeds]
  rfl

/-- An infinity is negative when its sign bit is set. -/
theorem lt_zero_of_isInf {x : F64} (h : Fp.isInf x = true) : Fp.lt x 0 = Fp.sign x := by
  simp only [Fp.isInf, Bool.and_eq_true, beq_iff_eq] at h
  obtain ⟨hexpo, hfrac⟩ := h
  have hmag : 0 < Fp.mag x := by
    rw [Fp.mag, hexpo, if_neg (by decide)]
    positivity
  have hnan : Fp.isNaN x = false := by simp [Fp.isNaN, hfrac]
  rw [Bool.eq_iff_iff, lt_zero_iff, Fp.units]
  cases Fp.sign x <;> simp [hnan, hmag]

/-- An infinity exceeds every boundary. -/
theorem absExceeds_of_isInf {x : F64} (h : Fp.isInf x = true) (a K : Nat) : Fp.absExceeds a K x = true := by
  have hnan : Fp.isNaN x = false := by simp_all [Fp.isNaN, Fp.isInf]
  simp [Fp.absExceeds, h, hnan]

/-- Settles O43: the finite values on the real line, the others by the tests that they pass. -/
theorem decisionIsNearest : Obligations.DecisionIsNearest := by
  refine fun m x => ⟨fun h => decidedLevel_nearest m h, fun h => decidedLevel_eq_one m (.inl h), fun h => ?_,
    fun h => decidedLevel_eq_one m (.inr h)⟩
  refine (decidedLevel_eq m x).trans ?_
  rw [lt_zero_of_isInf h]
  cases m <;> simp [Modulation.decidedMagnitude, decideLevel64, absExceeds_of_isInf h]

end Sys2Proof.Machine
end

section
/-! PROOF. The coordinates of the constellation (46_qam R291): each is the binary64 nearest to its level over √K,
and so deciding a point gives its bit group back (46_qam R294). -/

namespace Sys2Proof.Machine

/-! ### A value within half a last place is nearest -/

/-- Another whole number of last places, or a value below the binade, is at least one last place away. -/
theorem lastPlace_le_abs_sub {R k : Nat} {Y : ℤ} (hR : 2 ^ 52 < R)
    (hY : (2 ^ k : ℤ) ∣ Y ∨ k ≠ 0 ∧ Y < 2 ^ 52 * 2 ^ k) (hne : Y ≠ R * 2 ^ k) :
    2 ^ k ≤ |Y - R * 2 ^ k| := by
  have hpos : (0 : ℤ) < 2 ^ k := by positivity
  rcases hY with ⟨t, rfl⟩ | ⟨-, hlt⟩
  · have hone : 1 ≤ |t - R| := Int.one_le_abs fun h => hne (by rw [sub_eq_zero.1 h, mul_comm])
    calc (2 : ℤ) ^ k ≤ 2 ^ k * |t - R| := le_mul_of_one_le_right hpos.le hone
      _ = |2 ^ k * t - R * 2 ^ k| := by
        rw [← abs_of_pos hpos, ← abs_mul, abs_of_pos hpos]
        congr 1
        ring
  · have hbinade : (2 ^ 52 + 1) * 2 ^ k ≤ (R : ℤ) * 2 ^ k :=
      mul_le_mul_of_nonneg_right (by omega) hpos.le
    rw [abs_of_neg (by linarith)]
    linarith

/-- A value within half a last place of `r` is the nearest to `r`. -/
theorem nearest_of_half_lastPlace {R k : Nat} {Y : ℤ} {r : ℝ} (hR : 2 ^ 52 < R)
    (hr : |(R : ℝ) * 2 ^ k - r| ≤ 2 ^ k / 2) (hY : (2 ^ k : ℤ) ∣ Y ∨ k ≠ 0 ∧ Y < 2 ^ 52 * 2 ^ k) :
    |(R : ℝ) * 2 ^ k - r| ≤ |(Y : ℝ) - r| := by
  by_cases hne : Y = R * 2 ^ k
  · rw [hne]
    push_cast
    rfl
  · have hfar : (2 : ℝ) ^ k ≤ |(Y : ℝ) - R * 2 ^ k| := by
      exact_mod_cast lastPlace_le_abs_sub hR hY hne
    have htri := abs_sub_le (Y : ℝ) r (R * 2 ^ k)
    rw [abs_sub_comm r] at htri
    linarith

/-! ### The table of 46_qam R291 -/

/-- The positive normal value `c`, of at most 2, is within half a last place of `a / √K`, on whole numbers: its
significand is `2^52 + frac`, in units of `2^(expo - 1075)`. -/
def WithinHalfLastPlace (K a : Nat) (c : F64) : Prop :=
  Fp.sign c = false ∧ 0 < Fp.expo c ∧ Fp.expo c ≤ 1023 ∧ 0 < Fp.frac c ∧
    (2 * (2 ^ 52 + Fp.frac c) - 1) ^ 2 * K ≤ (a * 2 ^ (1076 - Fp.expo c)) ^ 2 ∧
    (a * 2 ^ (1076 - Fp.expo c)) ^ 2 ≤ (2 * (2 ^ 52 + Fp.frac c) + 1) ^ 2 * K

/-- Every entry of the table is correctly rounded (46_qam R291). -/
theorem magnitude_withinHalfLastPlace (m : Modulation) {a : Nat} (ha : a ∈ m.magnitudes) :
    WithinHalfLastPlace m.K a (m.magnitude a) := by
  unfold WithinHalfLastPlace
  cases m <;> revert a <;> decide

/-- The same on real numbers, in units of 2^-1074. -/
theorem WithinHalfLastPlace.abs_sub_le {K a : Nat} {c : F64} (hK : 0 < K) (h : WithinHalfLastPlace K a c) :
    |((2 ^ 52 + Fp.frac c : Nat) : ℝ) * 2 ^ (Fp.expo c - 1) - a * 2 ^ 1074 / Real.sqrt K| ≤
      2 ^ (Fp.expo c - 1) / 2 := by
  obtain ⟨-, hexpo, hexpo', -, hlow, hhigh⟩ := h
  have hsqrt : 0 < Real.sqrt K := Real.sqrt_pos.2 (by exact_mod_cast hK)
  have hsq : Real.sqrt K ^ 2 = K := Real.sq_sqrt (Nat.cast_nonneg K)
  have hsplit : 2 * (2 : ℝ) ^ 1074 = 2 ^ (Fp.expo c - 1) * 2 ^ (1076 - Fp.expo c) := by
    rw [← pow_succ', ← pow_add]
    congr 1
    omega
  have hu : (0 : ℝ) < 2 ^ (Fp.expo c - 1) := by positivity
  have hR : 1 ≤ 2 * (2 ^ 52 + Fp.frac c) := by omega
  generalize 2 ^ 52 + Fp.frac c = R at *
  generalize 1076 - Fp.expo c = j at *
  generalize (2 : ℝ) ^ (Fp.expo c - 1) = u at *
  generalize (2 : ℝ) ^ 1074 = B at *
  have hlow' : (2 * R - 1 : ℝ) * Real.sqrt K ≤ a * 2 ^ j := by
    refine le_of_sq_le_sq ?_ (by positivity)
    rw [mul_pow, hsq]
    have hcast : (((2 * R - 1) ^ 2 * K : Nat) : ℝ) ≤ ((a * 2 ^ j) ^ 2 : Nat) := Nat.cast_le.2 hlow
    push_cast [hR] at hcast
    exact hcast
  have hhigh' : a * 2 ^ j ≤ (2 * R + 1 : ℝ) * Real.sqrt K := by
    refine le_of_sq_le_sq ?_ (by positivity)
    rw [mul_pow (2 * R + 1 : ℝ), hsq]
    exact_mod_cast hhigh
  have hscaled : u * (a * 2 ^ j) = 2 * (a * B) := by linear_combination (-a : ℝ) * hsplit
  have hulow := mul_le_mul_of_nonneg_left hlow' hu.le
  have huhigh := mul_le_mul_of_nonneg_left hhigh' hu.le
  rw [abs_le, neg_le_sub_iff_le_add, sub_le_comm, div_le_iff₀ hsqrt, le_div_iff₀ hsqrt]
  constructor <;> linarith

theorem WithinHalfLastPlace.mag_eq {K a : Nat} {c : F64} (h : WithinHalfLastPlace K a c) :
    Fp.mag c = (2 ^ 52 + Fp.frac c) * 2 ^ (Fp.expo c - 1) := by
  obtain ⟨-, hexpo, -⟩ := h
  exact if_neg hexpo.ne'

theorem Modulation.K_pos (m : Modulation) : 0 < m.K := by cases m <;> decide

/-- A distance on the real line, in units of 2^-1074. -/
theorem abs_units_div_sub (X a q : ℝ) : |X / 2 ^ 1074 - a / q| = |X - a * 2 ^ 1074 / q| / 2 ^ 1074 := by
  have hpos : (0 : ℝ) < 2 ^ 1074 := by positivity
  generalize (2 : ℝ) ^ 1074 = B at *
  rw [← abs_of_pos hpos, ← abs_div, abs_of_pos hpos, sub_div, div_right_comm,
    mul_div_cancel_right₀ _ hpos.ne']

/-- Mirror images are equally far from each other's mirror images. -/
theorem abs_neg_div_sub (X p l q : ℝ) : |-X / p - l / q| = |X / p - -l / q| := by
  rw [← abs_neg]
  congr 1
  ring

section
variable (m : Modulation) {a : Nat} (ha : a ∈ m.magnitudes)
include ha

/-- No binary64 is nearer to `a / √K` than the entry of the table. -/
theorem magnitude_nearest {Y : ℤ} (hY : (2 ^ (Fp.expo (m.magnitude a) - 1) : ℤ) ∣ Y ∨
      Fp.expo (m.magnitude a) - 1 ≠ 0 ∧ Y < 2 ^ 52 * 2 ^ (Fp.expo (m.magnitude a) - 1)) :
    |(Fp.mag (m.magnitude a) : ℝ) / 2 ^ 1074 - a / Real.sqrt m.K| ≤
      |(Y : ℝ) / 2 ^ 1074 - a / Real.sqrt m.K| := by
  have htable := magnitude_withinHalfLastPlace m ha
  obtain ⟨-, -, -, hfrac, -⟩ := magnitude_withinHalfLastPlace m ha
  have hnear := nearest_of_half_lastPlace (by omega) (htable.abs_sub_le m.K_pos) hY
  rw [htable.mag_eq, Nat.cast_mul, Nat.cast_pow, Nat.cast_ofNat, abs_units_div_sub, abs_units_div_sub]
  exact div_le_div_of_nonneg_right hnear (by positivity)

/-- The entries of the table are within 2^-53 of the real numbers (46_qam R294). -/
theorem abs_magnitude_sub_le :
    |(Fp.mag (m.magnitude a) : ℝ) / 2 ^ 1074 - a / Real.sqrt m.K| ≤ 1 / 2 ^ 53 := by
  have htable := magnitude_withinHalfLastPlace m ha
  obtain ⟨-, -, hexpo, -⟩ := magnitude_withinHalfLastPlace m ha
  have hnear := htable.abs_sub_le m.K_pos
  have hplace : (2 : ℝ) ^ (Fp.expo (m.magnitude a) - 1) ≤ 2 ^ 1022 :=
    pow_le_pow_right₀ one_le_two (by omega)
  have hsplit : (2 : ℝ) ^ 1074 = 2 ^ 1022 * 2 ^ 52 := pow_add 2 1022 52
  have hpos : (0 : ℝ) < 2 ^ 1074 := by positivity
  rw [htable.mag_eq, Nat.cast_mul, Nat.cast_pow, Nat.cast_ofNat]
  rw [abs_units_div_sub, div_le_iff₀ hpos]
  generalize (2 : ℝ) ^ 1074 = B at *
  generalize (2 : ℝ) ^ 1022 = u at *
  linarith

end

/-! ### Coordinates (46_qam R291) -/

theorem expo_or_signBit (c : F64) : Fp.expo (c ||| Fp.signBit) = Fp.expo c := by
  have h : (c ||| Fp.signBit).extractLsb' 52 11 = c.extractLsb' 52 11 := by
    rw [BitVec.extractLsb'_or, show Fp.signBit.extractLsb' 52 11 = 0#11 by decide, BitVec.or_zero]
  rw [Fp.expo, h, Fp.expo]

theorem frac_or_signBit (c : F64) : Fp.frac (c ||| Fp.signBit) = Fp.frac c := by
  have h : (c ||| Fp.signBit).extractLsb' 0 52 = c.extractLsb' 0 52 := by
    rw [BitVec.extractLsb'_or, show Fp.signBit.extractLsb' 0 52 = 0#52 by decide, BitVec.or_zero]
  rw [Fp.frac, h, Fp.frac]

/-- A coordinate is its magnitude with the sign of its level (46_qam R291). -/
theorem units_coord (m : Modulation) {l : ℤ} (hl : l.natAbs ∈ m.magnitudes) :
    Fp.units (m.coord l) =
      if l < 0 then -(Fp.mag (m.magnitude l.natAbs) : ℤ) else Fp.mag (m.magnitude l.natAbs) := by
  obtain ⟨hsign, -⟩ := magnitude_withinHalfLastPlace m hl
  have hneg : Fp.sign (m.magnitude l.natAbs ||| Fp.signBit) = true := by
    rw [Fp.sign, BitVec.getLsbD_or, show Fp.signBit.getLsbD 63 = true by decide, Bool.or_true]
  have hmag : Fp.mag (m.magnitude l.natAbs ||| Fp.signBit) = Fp.mag (m.magnitude l.natAbs) := by
    rw [Fp.mag, expo_or_signBit, frac_or_signBit, Fp.mag]
  rw [Modulation.coord]
  split_ifs with h
  · rw [Fp.units, if_pos hneg, hmag]
  · rw [Fp.units, if_neg (by simp [hsign])]

theorem isFinite_coord (m : Modulation) {l : ℤ} (hl : l.natAbs ∈ m.magnitudes) :
    Fp.isFinite (m.coord l) = true := by
  obtain ⟨-, -, hexpo, -⟩ := magnitude_withinHalfLastPlace m hl
  have hne : Fp.expo (m.magnitude l.natAbs) ≠ 2047 := by omega
  rw [Modulation.coord, Fp.isFinite, bne_iff_ne]
  split_ifs
  · rwa [expo_or_signBit]
  · exact hne

/-- The error of a coordinate is that of its magnitude. -/
theorem abs_coord_sub (m : Modulation) {l : ℤ} (hl : l.natAbs ∈ m.magnitudes) :
    |Fp.value (m.coord l) - l / Real.sqrt m.K| =
      |(Fp.mag (m.magnitude l.natAbs) : ℝ) / 2 ^ 1074 - l.natAbs / Real.sqrt m.K| := by
  rw [Fp.value, units_coord m hl, Nat.cast_natAbs, Int.cast_abs]
  split_ifs with h
  · rw [abs_of_neg (Int.cast_lt_zero.2 h), Int.cast_neg, Int.cast_natCast, abs_neg_div_sub]
  · rw [abs_of_nonneg (Int.cast_nonneg (not_lt.1 h)), Int.cast_natCast]

/-- Settles O44: a negative level by its mirror image. -/
theorem coordinatesAreNearest : Obligations.CoordinatesAreNearest := by
  intro m x y z d _ l
  have hl : l.natAbs ∈ m.magnitudes := natAbs_level_mem m x y z
  obtain ⟨hpos, hneg⟩ := Fp.dvd_units_or_lt d (Fp.expo (m.magnitude l.natAbs) - 1)
  refine (abs_coord_sub m hl).trans_le ?_
  rcases lt_or_ge l 0 with h | h
  · refine (magnitude_nearest m hl hneg).trans_eq ?_
    rw [Nat.cast_natAbs, Int.cast_abs, abs_of_neg (Int.cast_lt_zero.2 h), Int.cast_neg,
      abs_neg_div_sub, neg_neg]
  · refine (magnitude_nearest m hl hpos).trans_eq ?_
    rw [Nat.cast_natAbs, Int.cast_abs, abs_of_nonneg (Int.cast_nonneg h)]

/-! ### Deciding a point (46_qam R294) -/

/-- Deciding a coordinate gives its level: the coordinate is far nearer to it than to any other one. -/
theorem decidedLevel_coord (m : Modulation) (x y z : Bool) :
    m.decidedLevel (m.coord (m.level x y z)) = m.level x y z := by
  have hl := natAbs_level_mem m x y z
  have hdecided := decidedLevel_nearest m (isFinite_coord m hl) x y z
  have hcoord := (abs_coord_sub m hl).trans_le (abs_magnitude_sub_le m hl)
  have hsqrt := m.sqrt_K_pos
  have hseven : Real.sqrt m.K ≤ 7 := by
    have hK : m.K ≤ 49 := by cases m <;> decide
    rw [Real.sqrt_le_left (by norm_num)]
    have : (m.K : ℝ) ≤ 49 := by exact_mod_cast hK
    linarith
  generalize m.decidedLevel (m.coord (m.level x y z)) = d at *
  generalize m.level x y z = l at *
  have htri := abs_sub_le ((d : ℝ) / Real.sqrt m.K) (Fp.value (m.coord l)) (l / Real.sqrt m.K)
  rw [← sub_div, abs_div, abs_of_pos hsqrt, abs_sub_comm (_ / _) (Fp.value _)] at htri
  have hlt : |(d : ℝ) - l| < 1 := by
    have hquot : |(d : ℝ) - l| / Real.sqrt m.K < 1 / 7 := by linarith
    rw [div_lt_iff₀ hsqrt] at hquot
    linarith
  exact sub_eq_zero.1 (Int.abs_lt_one_iff.1 (by exact_mod_cast hlt))

/-- The decided bits of a coordinate are the bits that selected it. -/
theorem decideAxis_coord (m : Modulation) (x y z : Bool) :
    let d := m.decideAxis (m.coord (m.level x y z))
    d.1 = x ∧ (2 ≤ m.axisBits → d.2.1 = y) ∧ (3 ≤ m.axisBits → d.2.2 = z) :=
  bits_eq_of_level_eq m (decidedLevel_coord m x y z)

/-- Deciding the point of some bits gives the bits of its group. -/
theorem decideGroup_point (m : Modulation) (f : Nat → Bool) :
    m.decideGroup (m.point f) = (List.range (2 * m.axisBits)).map f := by
  obtain ⟨hi0, hi1, hi2⟩ := decideAxis_coord m (f 0) (f 2) (f 4)
  obtain ⟨hq0, hq1, hq2⟩ := decideAxis_coord m (f 1) (f 3) (f 5)
  simp only [Modulation.decideGroup, Modulation.point, hi0, hq0]
  cases m with
  | qpsk => rfl
  | qam16 => rw [hi1 le_rfl, hq1 le_rfl]; rfl
  | qam64 => rw [hi1 (by decide), hq1 (by decide), hi2 le_rfl, hq2 le_rfl]; rfl

/-- Settles O41: the bits of the group are the entries of the list. -/
theorem decideOfPoint : Obligations.DecideOfPoint := by
  intro m b hb
  rw [decideGroup_point, ← hb]
  refine List.ext_getElem (by simp) fun i _ hi => ?_
  simp [hi]

end Sys2Proof.Machine
end

section
/-! PROOF. QAM_MAP, QAM_DEMAP and QAM_DETECT (46_qam R293 to R296): the points, the bits and the nearest points
that they store, and what the first two after one another leave of the memory. -/

namespace Sys2Proof.Machine

/-! ### The bits of a symbol (46_qam R290, R296) -/

/-- BPS of a legal configuration is the bits of both coordinates of its constellation (46_qam R296). -/
theorem bps_eq_of_legal {s : State} (h : s.active.legal) : s.bps = 2 * s.modulation.axisBits := by
  obtain ⟨hmod, -⟩ := legal_checks h
  have hbps : s.bps = 2 * (s.active.mod.toNat + 1) := legal_bps h
  rw [State.modulation, Modulation.ofBps]
  split_ifs <;> simp only [Modulation.axisBits] <;> omega

theorem bps_range {s : State} (h : s.active.legal) : 0 < s.bps ∧ s.bps ≤ 6 := by
  rw [bps_eq_of_legal h]
  cases s.modulation <;> decide

/-- A point depends on the bits of its modulation only (46_qam R291). -/
theorem point_congr (m : Modulation) {f g : Nat → Bool} (h : ∀ t < 2 * m.axisBits, f t = g t) :
    m.point f = m.point g := by
  cases m with
  | qpsk => simp only [Modulation.point, Modulation.level, h 0 (by decide), h 1 (by decide)]
  | qam16 =>
    simp only [Modulation.point, Modulation.level, h 0 (by decide), h 1 (by decide), h 2 (by decide),
      h 3 (by decide)]
  | qam64 =>
    simp only [Modulation.point, h 0 (by decide), h 1 (by decide), h 2 (by decide), h 3 (by decide),
      h 4 (by decide), h 5 (by decide)]

/-- The symbol of a group is the point of its stream bits (46_qam R290). -/
theorem symbolOfBits_eq {s : State} (h : s.active.legal) (k : Nat) :
    s.symbolOfBits k = s.modulation.point fun i => s.bit (k * s.bps + i) := by
  refine point_congr _ fun t ht => ?_
  rw [← bps_eq_of_legal h] at ht
  simp only [decide_eq_true ht, Bool.true_and]

/-! ### The commands when their checks pass -/

section
variable {s : State} {cnt : Nat} (hv : s.status.cfgValid = true)
include hv

theorem exec_qamMap_of_valid (hc : cnt ≤ s.bps * Config.symCap) (hbits : cnt % s.bps = 0) :
    exec (.qamMap cnt) s = .next
      ((s.writeElems .sym ((List.range (cnt / s.bps)).map s.symbolOfBits)).complete 0x50 (cnt / s.bps)) := by
  simp only [exec, execQamMap, hv, if_neg (not_lt.2 hc), hbits]
  rfl

theorem exec_qamDemap_of_valid (hc : cnt ≤ Config.symCap) :
    exec (.qamDemap cnt) s = .next
      ((s.writeBits ((s.elems .sym cnt).flatMap s.modulation.decideGroup)).complete 0x51 (cnt * s.bps)) := by
  simp only [exec, execQamDemap, hv, if_neg (not_lt.2 hc)]
  rfl

theorem exec_qamDetect_of_valid (hc : cnt ≤ Config.symCap) :
    exec (.qamDetect cnt) s = .next
      ((s.writeElems .sym ((s.elems .sym cnt).map s.modulation.nearest)).complete 0x52 cnt) := by
  simp only [exec, execQamDetect, hv, if_neg (not_lt.2 hc)]
  rfl

end

/-- Settles O38: the store of the symbols of the groups. -/
theorem qamMapWritesPoints : Obligations.QamMapWritesPoints := by
  intro cnt s ⟨hv, hlegal⟩ hc hbits
  have hlen : cnt / s.bps ≤ 2048 := Nat.div_le_of_le_mul hc
  obtain ⟨hdone, hconfig, hresults, hdraw, hbytes, helem⟩ :=
    completed_store_range s .sym s.symbolOfBits 0x50 (hlen.trans_lt (by decide)) rfl
  exact ⟨_, exec_qamMap_of_valid hv hc hbits, hdone, hconfig, hresults, hdraw, hbytes,
    fun k hk => (helem k hk).trans (symbolOfBits_eq hlegal k)⟩

/-- Settles O40: the store of the nearest points. -/
theorem qamDetectWritesNearest : Obligations.QamDetectWritesNearest := by
  intro cnt s hv hc
  have hexec := exec_qamDetect_of_valid hv hc
  rw [State.elems, List.map_map] at hexec
  exact ⟨_, hexec, completed_store_range s .sym (s.modulation.nearest ∘ s.elem .sym) 0x52
    (hc.trans_lt (by decide)) rfl⟩

/-! ### The bits of QAM_DEMAP -/

/-- Bit `i` of groups of `n` bits in a row. -/
theorem flatMap_getD_of_length {α : Type} (f : α → List Bool) {n : Nat} (hf : ∀ z, (f z).length = n)
    (zs : List α) (d : α) {i : Nat} (hi : i < zs.length * n) :
    (zs.flatMap f).getD i false = (f (zs.getD (i / n) d)).getD (i % n) false := by
  have hn : 0 < n := Nat.pos_of_ne_zero fun h => by simp [h] at hi
  induction zs generalizing i with
  | nil => simp at hi
  | cons z zs ih =>
    rw [List.flatMap_cons]
    rcases lt_or_ge i n with hlt | hge
    · rw [List.getD_append _ _ _ _ (hlt.trans_eq (hf z).symm), Nat.div_eq_of_lt hlt, Nat.mod_eq_of_lt hlt,
        List.getD_cons_zero]
    · obtain ⟨j, rfl⟩ := Nat.exists_eq_add_of_le hge
      rw [List.length_cons, Nat.succ_mul] at hi
      rw [List.getD_append_right _ _ _ _ ((hf z).trans_le hge), hf, Nat.add_sub_cancel_left, ih (by omega),
        Nat.add_div_left _ hn, Nat.add_mod_left, List.getD_cons_succ]

/-- Completion changes no bit (60_exceptions R310). -/
@[simp] theorem complete_bit (s : State) (op : BitVec 8) (n i : Nat) :
    (s.complete op n).bit i = s.bit i := bit_congr rfl rfl i

/-- Settles O39: the store of the decided groups. -/
theorem qamDemapWritesBits : Obligations.QamDemapWritesBits := by
  intro cnt s ⟨hv, hlegal⟩ hc
  have hlen : ((s.elems .sym cnt).flatMap s.modulation.decideGroup).length = cnt * s.bps := by
    rw [flatMap_decideGroup_length, elems_length, ← bps_eq_of_legal hlegal, Nat.mul_comm]
  have hout : cnt * s.bps < 2 ^ 24 :=
    (Nat.mul_le_mul hc (bps_range hlegal).2).trans_lt (by decide)
  refine ⟨_, exec_qamDemap_of_valid hv hc, completed_withEffect s (.of (s.writeBits _)) 0x51 hout,
    ⟨rfl, rfl, rfl⟩, rfl, rfl, fun x hx => ?_, fun i hi => ?_, fun i hi => ?_⟩
  · rw [complete_byte]
    exact byte_writeBits_outside s _ x (hlen.symm ▸ hx)
  · have hk : i / s.bps < cnt := Nat.div_lt_of_lt_mul (hi.trans_eq (Nat.mul_comm _ _))
    rw [complete_bit, bit_writeBits, if_pos (hi.trans_eq hlen.symm),
      flatMap_getD_of_length _ (fun z => (decideGroup_length s.modulation z).trans (bps_eq_of_legal hlegal).symm)
        _ czero (by rwa [elems_length])]
    simp [State.elems, hk]
  · rw [complete_bit, bit_writeBits, if_neg (by omega)]

/-! ### QAM_MAP and then QAM_DEMAP (46_qam R294) -/

/-- A store to SYM leaves the bits of BITS, which lies below it (20_memory R101). -/
theorem bit_of_sameBytesOutside {s t : State} {n i : Nat} (h : SameBytesOutside Buffer.sym.base n s t)
    (hi : i < Config.bitsCap) : t.bit i = s.bit i := by
  have hbelow : Buffer.bits.base + i / 8 < Buffer.sym.base := by
    simp only [Config.bitsCap, Buffer.base] at *
    omega
  rw [State.bit, h _ (.inl hbelow), State.bit]

/-- The round trip of 46_qam R294 holds on BITS: a bit of a group is decided back, any other one is not
written. -/
theorem demap_after_map_restores {cnt : Nat} {s t u : State} (hs : s.configured) (hc : cnt ≤ s.bps * 2048)
    (hbits : cnt % s.bps = 0) (ht : exec (.qamMap cnt) s = .next t)
    (hu : exec (.qamDemap (cnt / s.bps)) t = .next u) {i : Nat} (hi : i < Config.bitsCap) :
    u.bit i = s.bit i := by
  obtain ⟨t, ht', -, htc, -, -, htbytes, hsym⟩ := qamMapWritesPoints cnt s hs hc hbits
  obtain rfl := Host.Outcome.next.inj (ht'.symm.trans ht)
  have hbps : t.bps = s.bps := congrArg (·.bps.toNat) htc.active
  have hmod : t.modulation = s.modulation := congrArg Modulation.ofBps hbps
  obtain ⟨u, hu', -, -, -, -, -, hin, hout⟩ := qamDemapWritesBits (cnt / s.bps) t
    ⟨htc.cfgValid.trans hs.1, htc.active ▸ hs.2⟩ (Nat.div_le_of_le_mul hc)
  obtain rfl := Host.Outcome.next.inj (hu'.symm.trans hu)
  rw [hbps, Nat.div_mul_cancel (Nat.dvd_of_mod_eq_zero hbits)] at hin hout
  rcases lt_or_ge i cnt with hlt | hge
  · have hk : i / s.bps < cnt / s.bps := Nat.div_lt_div_of_lt_of_dvd (Nat.dvd_of_mod_eq_zero hbits) hlt
    have ht : i % s.bps < s.bps := Nat.mod_lt _ (bps_range hs.2).1
    rw [hin i hlt, hmod, hsym _ hk, decideGroup_point, ← bps_eq_of_legal hs.2]
    simp [ht, Nat.div_add_mod']
  · exact (hout i hge).trans (bit_of_sameBytesOutside htbytes hi)

/-! O42 speaks of every bit index, so of bits past the end of BITS too, and those of SYM are among them. -/

/-- N 8, Nc 2, CP 0, QPSK. -/
def qpskShadow : HostConfig := { HostConfig.reset with log2n := 3, nc := 2 }

/-- A block configured for QPSK with `CZERO` in SYM[0]. -/
def zeroSymbol : State :=
  State.writeElems { State.reset with
    status := { Status.reset with cfgValid := true }, active := qpskShadow.derive } .sym [czero]

theorem zeroSymbol_configured : zeroSymbol.configured := ⟨rfl, derive_legal (c := qpskShadow) (by decide)⟩

/-- As a bit of the stream, bit 56 of SYM[0]'s real part has an index past BITS (20_memory R101, R107). -/
theorem bit_eq_sym_re (s : State) :
    s.bit (8 * (Buffer.sym.base - Buffer.bits.base) + 56) = (s.elem .sym 0).re.getLsbD 56 := by
  simp only [State.bit, State.elem, State.word64, State.word32, BitVec.getLsbD_append]
  rfl

/-- Bit 56 of both QPSK coordinates is 1 (46_qam R291). -/
theorem qpsk_re_getLsbD (f : Nat → Bool) : (Modulation.qpsk.point f).re.getLsbD 56 = true := by
  simp only [Modulation.point, Modulation.level]
  cases f 0 <;> decide

/-- Refutes O42: QAM_MAP of two bits stores a point over `CZERO`, which changes a bit of SYM. -/
theorem not_demapAfterMapRestoresBits : ¬ Obligations.DemapAfterMapRestoresBits := by
  intro h
  have hs := zeroSymbol_configured
  have hbps : zeroSymbol.bps = 2 := rfl
  obtain ⟨t, ht, -, htc, -, -, -, hsym⟩ := qamMapWritesPoints 2 zeroSymbol hs (by decide) (by decide)
  obtain ⟨u, hu, -, -, -, -, -, -, hout⟩ := qamDemapWritesBits 1 t
    ⟨htc.cfgValid.trans hs.1, htc.active ▸ hs.2⟩ (by decide)
  have hbpst : t.bps = 2 := congrArg (·.bps.toNat) htc.active
  have hlast := hout (8 * (Buffer.sym.base - Buffer.bits.base) + 56) (by rw [hbpst]; decide)
  have hmapped : (t.elem .sym 0).re.getLsbD 56 = true := by
    rw [hsym 0 (by decide)]
    exact qpsk_re_getLsbD _
  have hzero : zeroSymbol.elem .sym 0 = czero := elem_writeElems _ .sym [czero] 0 (by decide)
  have hsame := h 2 zeroSymbol t u hs (by decide) (by decide) ht hu
    (8 * (Buffer.sym.base - Buffer.bits.base) + 56)
  rw [hlast, bit_eq_sym_re, bit_eq_sym_re, hmapped, hzero] at hsame
  exact absurd hsame (by decide)

end Sys2Proof.Machine
end

section
/-! PROOF. Errors of the commands (60_exceptions R311 to R313): every error is precise, and NOT_CONFIGURED,
CAPACITY, SIZE_MISMATCH and BIT_LEN are the first failing check of the commands that have them. -/

namespace Sys2Proof.Machine

/-! ### Precise errors -/

/-- A word that decodes has the opcode of its command (30_encoding R143). -/
theorem opcField_of_decode {w : Word} {i : Instr} (h : decode w = .ok i) : opcField w = i.opcode := by
  by_cases hop : (opcField w).toNat ∈ commandTable.map (·.opcode.toNat)
  · obtain ⟨j, hj⟩ := exists_opcode_eq hop
    rw [decode_of_opcode hj] at h
    split at h
    · cases h
      rw [hj, Instr.opcode_withArg]
    · cases h
  · rw [decode_of_not_mem hop] at h
    cases h

/-- The engine's turn with a pending word raises one error under the word's opcode, or completes with code OK
(60_exceptions R310, R311). -/
theorem engineTurn_raises_or_ok {s : State} {w : Word} (hw : s.engine = .pending w) :
    (∃ code n, engineTurn s = .next (s.raiseError (opcField w) code n)) ∨
      ∃ t, engineTurn s = .next t ∧ t.status.errCode = .ok := by
  cases hd : decode w with
  | ok i =>
    rw [engineTurn_of_command hw hd, opcField_of_decode hd]
    obtain ⟨t, ht, hfin⟩ := exec_finishes i s
    cases hfin with
    | raised n _ => exact .inl ⟨_, n, ht⟩
    | completed e n _ => exact .inr ⟨_, ht, rfl⟩
  | error e =>
    obtain ⟨code, n, -, heq⟩ := rejectWord_eq_raiseError s w e
    exact .inl ⟨code, n, (engineTurn_of_error hw hd).trans (congrArg _ heq)⟩

/-- Settles O10: the turn did not complete with code OK, so it raised one error, whose code and information are
those in the new state. -/
theorem errorsArePrecise : Obligations.ErrorsArePrecise := by
  intro w s t hw ht hcode
  obtain ⟨code, n, hraise⟩ | ⟨u, hu, hok⟩ := engineTurn_raises_or_ok hw
  · cases ht.symm.trans hraise
    rw [hraise, Raises, raiseError_errInfo, BitVec.ofNat_toNat, BitVec.setWidth_eq]
    rfl
  · cases ht.symm.trans hu
    exact absurd hok hcode

/-! ### The first check that fails -/

section
variable {op : BitVec 8} {code : ErrCode} {info : Nat} {s t u : State} {c : Prop} [Decidable c]

/-- A check that fails raises its error, whatever would come after it (60_exceptions R312). -/
theorem raises_of_failed (hc : c) :
    Raises op code info s (.next (if c then s.raiseError op code info else u)) := by
  rw [if_pos hc]
  rfl

/-- A check that passes leaves the outcome to what comes after it (60_exceptions R312). -/
theorem Raises.of_passed (hc : ¬c) (h : Raises op code info s (.next u)) :
    Raises op code info s (.next (if c then t else u)) := by
  rwa [if_neg hc]

/-- On a configured block the check of CFG_VALID passes (60_exceptions R312 NOT_CONFIGURED). -/
theorem Raises.of_configured (hv : s.status.cfgValid = true) (h : Raises op code info s (.next u)) :
    Raises op code info s (.next (if !s.status.cfgValid then t else u)) :=
  .of_passed (by simp [hv]) h

end

/-- Settles O11: CFG_VALID is the first check of the twelve commands. -/
theorem notConfiguredBeforeConfig : Obligations.NotConfiguredBeforeConfig := by
  intro i s hnop hconfig hv
  have hfails : (!s.status.cfgValid) = true := by simp [hv]
  cases i with
  | nop => exact absurd rfl hnop
  | config => exact absurd rfl hconfig
  | precode | decode | map | extractData | extractPilots | ifftCp | cpFft | chest | equalize | qamMap
  | qamDemap | qamDetect => exact raises_of_failed hfails

/-- Settles O13: CAPACITY is the check after CFG_VALID. -/
theorem capacityChecked : Obligations.CapacityChecked := by
  intro cnt s hv
  refine ⟨fun hsym => ⟨?_, ?_, ?_, ?_, ?_⟩, fun htime => ?_, fun hbits => ?_⟩
  · exact congrArg _ (precoder_of_capacity .fwd 0x10 hv hsym)
  · exact congrArg _ (precoder_of_capacity .inv 0x11 hv hsym)
  · exact .of_configured hv (raises_of_failed hsym)
  · exact .of_configured hv (raises_of_failed hsym)
  · exact .of_configured hv (raises_of_failed hsym)
  · exact .of_configured hv (raises_of_failed htime)
  · exact .of_configured hv (raises_of_failed hbits)

/-- With SC-FDM enabled a count within capacity other than M is of the wrong size (41_precoder R200, R201). -/
theorem precoder_of_wrongSize {s : State} {cnt : Nat} (dir : Dir) (op : BitVec 8)
    (hv : s.status.cfgValid = true) (he : s.cfg.scfdmEn = true) (hc : cnt ≤ Config.symCap)
    (hM : cnt ≠ s.M) : precoder dir op cnt s = s.raiseError op .sizeMismatch s.M := by
  simp [precoder, hv, he, not_lt.2 hc, hM]

/-- Settles O14: the checks of CFG_VALID and CAPACITY pass, and the one after them fails. -/
theorem countOfWrongSizeRaises : Obligations.CountOfWrongSizeRaises := by
  intro cnt s hv
  refine ⟨fun he hcap hM => ⟨?_, ?_⟩, fun hm hcap hM => ?_, fun hm hcap hNc => ?_, fun hcap hbits => ?_⟩
  · exact congrArg _ (precoder_of_wrongSize .fwd 0x10 hv he hcap hM)
  · exact congrArg _ (precoder_of_wrongSize .inv 0x11 hv he hcap hM)
  · exact .of_configured hv (.of_passed hcap.not_gt (.of_passed (by simp [hm]) (raises_of_failed hM)))
  · refine .of_configured hv (.of_passed hcap.not_gt ?_)
    rw [if_pos hm]
    exact raises_of_failed hNc
  · exact .of_configured hv (.of_passed hcap.not_gt (raises_of_failed hbits))

end Sys2Proof.Machine
end

section
/-! PROOF. The interrupt output as a function of STATUS and IRQ_EN (60_exceptions R320), and what the two resets
leave of the registers and the buffers (70_reset R340, R341). -/

namespace Sys2Proof.Machine

/-! ### The interrupt output -/

/-- The flags of STATUS that raise an interrupt, at their bits (10_state R45). -/
theorem statusWord_flags (s : State) :
    s.statusWord.getLsbD 1 = s.status.done ∧ s.statusWord.getLsbD 2 = s.status.err ∧
      s.statusWord.getLsbD 4 = s.status.cmdOvr ∧ s.statusWord.getLsbD 5 = s.status.hostConflict ∧
      s.statusWord.getLsbD 6 = s.status.busErr ∧ s.statusWord.getLsbD 7 = s.status.degen := by
  simp only [State.statusWord, BitVec.getLsbD_append]
  simp

/-- The enables of IRQ_EN, at their bits (10_state R46). -/
theorem irqEnable_bits (e : IrqEnable) :
    e.word.getLsbD 0 = e.doneIe ∧ e.word.getLsbD 1 = e.errIe ∧ e.word.getLsbD 2 = e.faultIe ∧
      e.word.getLsbD 3 = e.degenIe := by
  simp only [IrqEnable.word, BitVec.getLsbD_append]
  simp

/-- Settles O56: each bit that is read is the flag or the enable it stands for; after reset all are 0. -/
theorem irqIsLevelOfFlags : Obligations.IrqIsLevelOfFlags := by
  refine ⟨fun s => ?_, rfl, fun _ => rfl⟩
  obtain ⟨hdone, herr, hcmdOvr, hconflict, hbusErr, hdegen⟩ := statusWord_flags s
  obtain ⟨hdoneIe, herrIe, hfaultIe, hdegenIe⟩ := irqEnable_bits s.irqEn
  simp only [State.readReg, hdone, herr, hcmdOvr, hconflict, hbusErr, hdegen, hdoneIe, herrIe, hfaultIe,
    hdegenIe]
  rfl

/-! ### The registers after a reset -/

/-- No register shows the buffers or the model's own fields (10_state R42). -/
theorem readReg_of_sameRegisters (s : State) (m : Memory) (e : Epochs) (d : Nat) (evs : List Event)
    (v : Word) (r : Reg) :
    ({ s with mem := m, epochs := e, draw := d, sched := evs, rdata := v } : State).readReg r =
      s.readReg r := by
  cases r <;> rfl

theorem readReg_hardReset (s : State) (r : Reg) : (hardReset s).readReg r = State.reset.readReg r :=
  readReg_of_sameRegisters State.reset _ _ _ _ _ r

theorem readReg_softReset (s : State) (r : Reg) : (softReset s).readReg r = State.reset.readReg r := by
  unfold softReset
  cases s.cancelled with
  | none => exact readReg_of_sameRegisters State.reset _ _ _ _ _ r
  | some b => exact readReg_of_sameRegisters State.reset _ _ _ _ _ r

/-- Settles O58: every register reads as in the reset state, whose values are those of R90. -/
theorem hardResetValues : Obligations.HardResetValues := by
  intro s t
  refine ⟨rfl, fun _ => rfl, rfl, rfl, rfl, rfl, fun r hid hversion hepsLo hepsHi => ?_⟩
  rw [readReg_hardReset]
  cases r with
  | id => exact absurd rfl hid
  | version => exact absurd rfl hversion
  | epsLo => exact absurd rfl hepsLo
  | epsHi => exact absurd rfl hepsHi
  | _ => rfl

/-! ### The buffers after a soft reset -/

theorem softReset_engine (s : State) : (softReset s).engine = .idle := by
  unfold softReset
  cases s.cancelled <;> rfl

/-- A soft reset keeps every byte outside the buffer of the cancelled command (70_reset R341). -/
theorem byte_softReset {s : State} {x : Nat} (h : ∀ b, s.cancelled = some b → b.holds x = false) :
    (softReset s).byte x = s.byte x := by
  have hregisters : s.resetRegisters.byte x = s.byte x := byte_congr rfl rfl x
  unfold softReset
  cases hc : s.cancelled with
  | none => exact hregisters
  | some b => exact (byte_unspecify_outside _ b x (h b hc)).trans hregisters

theorem cancelled_of_idle {s : State} (h : s.engine = .idle) : s.cancelled = none := by
  simp [State.cancelled, h]

theorem cancelled_of_pending {s : State} {w : Word} (h : s.engine = .pending w) :
    s.cancelled = writtenBuffer (opcField w) := by
  simp [State.cancelled, h]

/-- Settles O57: the write is a soft reset, which cancels nothing of an idle engine and the buffer of the
opcode of a pending one. -/
theorem softResetKeepsOtherBuffers : Obligations.SoftResetKeepsOtherBuffers := by
  intro v s h31 t
  have ht : t = softReset s := (hostWrite_of_reg (r := .ctrl) rfl v s).trans (writeReg_ctrl_of_reset h31 s)
  rw [ht]
  refine ⟨readReg_softReset s, softReset_engine s, fun hidle x => ?_, fun w hw x hx => ?_⟩
  · exact byte_softReset (by simp [cancelled_of_idle hidle])
  · exact byte_softReset (by rwa [cancelled_of_pending hw])

end Sys2Proof.Machine
end
